-- ==== Sys2Proof/Word.lean ====
section
/-! DEFINITION. The plain word types of the block (00_scope.md R10, R14): 32-bit values cross the ports whole (R73), the
bus carries bytes (R75), a level is one bit. -/

namespace Sys2Proof

/-- A 32-bit value: `CMD`, `ARG`, `RDATA`, a tick, a delta, `FINFO`, `LOC` (R91, R93). -/
abbrev Word := BitVec 32

/-- A byte of the bus (R75, R172). -/
abbrev Byte := BitVec 8

/-- A logical level: `false` is 0 (low), `true` is 1 (high) (R14). -/
abbrev Level := Bool

end Sys2Proof
end

