-- ==== Sys2Proof/Config.lean ====
section
/-! DEFINITION. What an implementation of the block fixes (the parameters of 00_scope.md R8), and the free values: what the
environment draws with no law (R13). A free value has no body, so no proof can learn it. -/

namespace Sys2Proof

/-- `UNDERFLOW_POLICY` (R8, R186): what IRQ_ENABLE does at `NEST` = 0. -/
inductive UnderflowPolicy where
  | clamp
  | fault
deriving DecidableEq, Repr

/-- The implementation parameters of R8. An `OPEN` parameter is an argument of the model: the machine reads it from its
state, so a claim about every state is a claim about every value of every parameter. The parameters of fixed value
(`TICK_W` = 32, `NEST_W` = 32, `FATAL_LOC_TRANSPORT`) are the types and the constant below. -/
structure Params where
  /-- `CNT_W`: width of the free-running counter; a legal value is at least 32 + `TICK_SHIFT`. -/
  cntW : Nat
  /-- `TICK_SHIFT`: low counter bits dropped before truncation. -/
  tickShift : Nat
  /-- `TICKS_PER_SEC`: the tick rate; no rule uses it (R293). -/
  ticksPerSec : Nat
  /-- `MAX_SLICE_TICKS`: the longest sleep slice; no rule uses it (R138, R293). -/
  maxSliceTicks : Nat
  /-- `NUM_DIO`: number of digital-interrupt lines, at most 12. -/
  numDio : Nat
  /-- `UNDERFLOW_POLICY`. -/
  underflowPolicy : UnderflowPolicy
  /-- `DISPATCH_DEPTH_MAX`: most dispatches outstanding at once, at least 1. -/
  dispatchDepthMax : Nat
  /-- `CS_ACTIVE`: the level that asserts chip-select (R157). -/
  csActive : Level
  /-- `PROBE_CMD`: the probe's status-register-read byte (R193). -/
  probeCmd : Byte
  /-- `PROBE_DUMMY`: the probe's dummy byte (R193). -/
  probeDummy : Byte
  /-- `PHYS_PIN_W`: width of a physical pin number (R24). -/
  physPinW : Nat
deriving DecidableEq, Repr

/-- `FATAL_LOC_TRANSPORT` (R8, R174): the location code the transport-fault path logs. -/
def fatalLocTransport : Word := 0xFFFFFFFF

/-- The parameters of the one machine that `State.reset` describes. `TICK_SHIFT`, `UNDERFLOW_POLICY`, `DISPATCH_DEPTH_MAX`,
`CS_ACTIVE` and `PROBE_DUMMY` are the defaults of R8; the others are those of the spec's test configurations TC0, TC1 and
V-W3 of 95_test_vectors.md, and `PHYS_PIN_W` is 8. DESIGN CHOICE (unsafe), log entry 1. -/
def Params.atReset : Params where
  cntW := 64
  tickShift := 0
  ticksPerSec := 1000000
  maxSliceTicks := 1000000
  numDio := 3
  underflowPolicy := .clamp
  dispatchDepthMax := 8
  csActive := false
  probeCmd := 0x12
  probeDummy := 0x00
  physPinW := 8

namespace Config

/-! The free values (R13, log entry 5). The argument is the draw index, a counter of the state that each use advances. -/

/-- How far the environment advances `CNT` before a step (R67). -/
opaque freeAdvance : Nat → Nat

/-- The level the environment presents at the pin with this code (R101) before a step (R68). -/
opaque freeLevel : Nat → Nat → Level

/-- Whether the transport reports a failure for an exchange of the step (R69). -/
opaque freeBusErr : Nat → Bool

/-- The byte an exchange of the step receives (R69). -/
opaque freeBusByte : Nat → Byte

/-- The level GET_LEVEL answers for an unused or an output-driven pin (R152, R156). -/
opaque freeAnyLevel : Nat → Level

end Config

end Sys2Proof
end

