-- ==== Sys2Proof/Syntax.lean ====
section
/-! DEFINITION. The syntax of DISP-CMD v1: logical pins (30_encoding.md R101), level operands (R102), cause codes by name
(60_exceptions.md R232) and the commands, one constructor per row of spec/opcode_table.json (R100). -/

namespace Sys2Proof

/-- The logical pins a command can drive (R32). -/
inductive OutPin where
  | cs
  | rst
  | rxtx
deriving DecidableEq, Repr

/-- A logical pin (R24, R101): one of the three pins that can be driven, or digital-interrupt line `i`. -/
inductive Pin where
  | out (p : OutPin)
  | dio (i : Nat)
deriving DecidableEq, Repr

/-- The level operand of SET_RST (R102, R154): low or high, or floating. -/
inductive RstLevel where
  | drive (l : Level)
  | floating
deriving DecidableEq, Repr

/-- The causes that stop the block (R232), `NONE` (the reset value of `FCAUSE`) apart. -/
inductive Cause where
  | illegalOpcode
  | reservedBits
  | illegalOperand
  | hretNoDispatch
  | hretUnbalanced
  | nestUnderflow
  | nestOverflow
  | dispatchDepth
  | transportFault
  | reportFatal
deriving DecidableEq, Repr

/-- The commands (R100), with the operands R93 assembles. -/
inductive Instr where
  /-- IRQ_DISABLE, format N (R184). -/
  | irqDisable
  /-- IRQ_ENABLE, format N (R185). -/
  | irqEnable
  /-- HRET, format N (R196). -/
  | hret
  /-- TICK_NOW, format N (R133). -/
  | tickNow
  /-- TICK_UNTIL, format D (R134). -/
  | tickUntil (deadline : Word)
  /-- TICK_REACHED, format D (R135). -/
  | tickReached (deadline : Word)
  /-- TICK_WAIT, format D (R137). -/
  | tickWait (deadline : Word)
  /-- SET_CS, format P (R153). -/
  | setCs (l : Level)
  /-- SET_RST, format P (R154). -/
  | setRst (l : RstLevel)
  /-- SET_RXTX, format P (R155). -/
  | setRxtx (l : Level)
  /-- GET_LEVEL, format P (R156). -/
  | getLevel (p : Pin)
  /-- SPI_XFER, format B (R172). -/
  | spiXfer (b : Byte)
  /-- FATAL, format F (R221). -/
  | fatal (loc : Word) (line : BitVec 24)
deriving DecidableEq, Repr

/-! The pseudo-instructions of R108, by their expansions. -/

/-- `CS_ASSERT` expands to `SET_CS CS_ACTIVE`. -/
def Instr.csAssert (p : Params) : Instr := .setCs p.csActive

/-- `CS_RELEASE` expands to `SET_CS (1 - CS_ACTIVE)`. -/
def Instr.csRelease (p : Params) : Instr := .setCs (!p.csActive)

/-- `RST_FLOAT` expands to `SET_RST F`. -/
def Instr.rstFloat : Instr := .setRst .floating

/-- `GET_DIO i` expands to `GET_LEVEL DIOi`. -/
def Instr.getDio (i : Nat) : Instr := .getLevel (.dio i)

end Sys2Proof
end

