-- ==== Sys2Proof/WellFormed.lean ====
section
/-! DEFINITION. Which commands the encoding can carry (30_encoding.md R101, R102). The operand types already shut out what
R105 calls an illegal pin or level of a pin-set command; what is left to check is the line index of GET_LEVEL. -/

namespace Sys2Proof

/-- A logical pin that a pin code of R101 names: every driven pin, and line `i` when the line exists (`i < NUM_DIO`) and its
code 4 + i fits the four bits of `PIN`. -/
def Pin.wf (numDio : Nat) : Pin → Bool
  | .out _ => true
  | .dio i => decide (i < numDio) && decide (i < 12)

/-- A well-formed command, given `NUM_DIO` (R106). -/
def Instr.wf (numDio : Nat) : Instr → Bool
  | .irqDisable | .irqEnable | .hret | .tickNow => true
  | .tickUntil _ | .tickReached _ | .tickWait _ => true
  | .setCs _ | .setRst _ | .setRxtx _ => true
  | .getLevel p => p.wf numDio
  | .spiXfer _ => true
  | .fatal _ _ => true

end Sys2Proof
end

