-- ==== Sys2Proof/Decode.lean ====
section
/-! DEFINITION. Decoding (30_encoding.md R92 to R106), the encoder written from the same tables, and the opcode map of R100
as rows of mask and match. -/

namespace Sys2Proof

/-- What decoding answers (R105): a command, or the cause of the fault it raises. -/
inductive Decoded where
  | instr (i : Instr)
  | fault (c : Cause)
deriving DecidableEq, Repr

/-- The opcodes of R100. The three pin-set commands share one (R98). -/
inductive Opcode where
  | irqDisable
  | irqEnable
  | hret
  | tickNow
  | tickUntil
  | tickReached
  | tickWait
  | pinSet
  | getLevel
  | spiXfer
  | fatal
deriving DecidableEq, Repr

/-- The opcode a value of `CMD[31:24]` stands for, `none` for a reserved one (R96 to R99, R103). -/
def opcodeOf (op : BitVec 8) : Option Opcode :=
  if op = 0x01 then some .irqDisable
  else if op = 0x02 then some .irqEnable
  else if op = 0x03 then some .hret
  else if op = 0x10 then some .tickNow
  else if op = 0x11 then some .tickUntil
  else if op = 0x12 then some .tickReached
  else if op = 0x13 then some .tickWait
  else if op = 0x20 then some .pinSet
  else if op = 0x21 then some .getLevel
  else if op = 0x30 then some .spiXfer
  else if op = 0xF0 then some .fatal
  else none

/-- The logical pin of a pin code, `none` for a reserved one (R101). -/
def pinOfCode (numDio : Nat) (code : BitVec 4) : Option Pin :=
  if code = 0 then some (.out .cs)
  else if code = 1 then some (.out .rst)
  else if code = 2 then some (.out .rxtx)
  else if 4 ≤ code.toNat ∧ code.toNat < 4 + numDio then some (.dio (code.toNat - 4))
  else none

/-- A command whose given reserved bits must be zero (R104). -/
def requireZero {w : Nat} (reserved : BitVec w) (d : Decoded) : Decoded :=
  if reserved = 0 then d else .fault .reservedBits

/-- The operand check of opcode 0x20 (R105): CS and RXTX take the levels 0 and 1, RST also 2 (floating). -/
def decodePinSet (pin : BitVec 4) (lvl : BitVec 2) : Decoded :=
  if pin = 0 ∧ lvl = 0 then .instr (.setCs false)
  else if pin = 0 ∧ lvl = 1 then .instr (.setCs true)
  else if pin = 1 ∧ lvl = 0 then .instr (.setRst (.drive false))
  else if pin = 1 ∧ lvl = 1 then .instr (.setRst (.drive true))
  else if pin = 1 ∧ lvl = 2 then .instr (.setRst .floating)
  else if pin = 2 ∧ lvl = 0 then .instr (.setRxtx false)
  else if pin = 2 ∧ lvl = 1 then .instr (.setRxtx true)
  else .fault .illegalOperand

/-- The pin check of opcode 0x21 (R105). -/
def decodeGetLevel (numDio : Nat) (pin : BitVec 4) : Decoded :=
  match pinOfCode numDio pin with
  | some p => .instr (.getLevel p)
  | none => .fault .illegalOperand

/-- Decoding (R105): total on every pair of words, in the order of the checks the rule gives. `ARG` supplies operands only. -/
def decode (numDio : Nat) (cmd arg : Word) : Decoded :=
  match opcodeOf (cmd.extractLsb' 24 8) with
  | none => .fault .illegalOpcode
  | some .irqDisable => requireZero (cmd.extractLsb' 0 24) (.instr .irqDisable)
  | some .irqEnable => requireZero (cmd.extractLsb' 0 24) (.instr .irqEnable)
  | some .hret => requireZero (cmd.extractLsb' 0 24) (.instr .hret)
  | some .tickNow => requireZero (cmd.extractLsb' 0 24) (.instr .tickNow)
  | some .tickUntil => requireZero (cmd.extractLsb' 0 24) (.instr (.tickUntil arg))
  | some .tickReached => requireZero (cmd.extractLsb' 0 24) (.instr (.tickReached arg))
  | some .tickWait => requireZero (cmd.extractLsb' 0 24) (.instr (.tickWait arg))
  | some .pinSet =>
    requireZero (cmd.extractLsb' 2 18) (decodePinSet (cmd.extractLsb' 20 4) (cmd.extractLsb' 0 2))
  | some .getLevel =>
    requireZero (cmd.extractLsb' 2 18)
      (requireZero (cmd.extractLsb' 0 2) (decodeGetLevel numDio (cmd.extractLsb' 20 4)))
  | some .spiXfer => requireZero (cmd.extractLsb' 8 16) (.instr (.spiXfer (cmd.extractLsb' 0 8)))
  | some .fatal => .instr (.fatal arg (cmd.extractLsb' 0 24))

/-! ## Encoding -/

/-- The level code of a driven level (R102). -/
def levelCode (l : Level) : BitVec 2 := if l then 1 else 0

/-- The level code of SET_RST's operand (R102): 2 is floating. -/
def rstLevelCode : RstLevel → BitVec 2
  | .drive l => levelCode l
  | .floating => 2

/-- The pin code of a logical pin (R101). -/
def pinCode : Pin → BitVec 4
  | .out .cs => 0
  | .out .rst => 1
  | .out .rxtx => 2
  | .dio i => BitVec.ofNat 4 (4 + i)

/-- A format P command word (R92). -/
def formatP (op : BitVec 8) (pin : BitVec 4) (lvl : BitVec 2) : Word := op ++ pin ++ 0#18 ++ lvl

/-- The command word of a command (R92, R100). -/
def encodeCmd : Instr → Word
  | .irqDisable => 0x01#8 ++ 0#24
  | .irqEnable => 0x02#8 ++ 0#24
  | .hret => 0x03#8 ++ 0#24
  | .tickNow => 0x10#8 ++ 0#24
  | .tickUntil _ => 0x11#8 ++ 0#24
  | .tickReached _ => 0x12#8 ++ 0#24
  | .tickWait _ => 0x13#8 ++ 0#24
  | .setCs l => formatP 0x20 (pinCode (.out .cs)) (levelCode l)
  | .setRst l => formatP 0x20 (pinCode (.out .rst)) (rstLevelCode l)
  | .setRxtx l => formatP 0x20 (pinCode (.out .rxtx)) (levelCode l)
  | .getLevel p => formatP 0x21 (pinCode p) 0
  | .spiXfer b => 0x30#8 ++ 0#16 ++ b
  | .fatal _ line => 0xF0#8 ++ line

/-- The argument word of a command (R92, R93). Formats N, P and B ignore `ARG` (R94); the encoder writes 0 there
(DESIGN CHOICE, safe, log entry 18). -/
def encodeArg : Instr → Word
  | .tickUntil d => d
  | .tickReached d => d
  | .tickWait d => d
  | .fatal loc _ => loc
  | .irqDisable | .irqEnable | .hret | .tickNow => 0
  | .setCs _ | .setRst _ | .setRxtx _ | .getLevel _ | .spiXfer _ => 0

/-- The words of a command: `CMD` and `ARG`. -/
def encode (i : Instr) : Word × Word := (encodeCmd i, encodeArg i)

/-! ## The opcode map of R100 as rows -/

/-- One row of R100: a word is of this row when `CMD &&& mask = pattern` and the row's extra constraint holds. -/
structure OpcodeRow where
  mask : Word
  pattern : Word
deriving DecidableEq, Repr

/-- The row of a command (R100). -/
def rowOf : Instr → OpcodeRow
  | .irqDisable => ⟨0xFFFFFFFF, 0x01000000⟩
  | .irqEnable => ⟨0xFFFFFFFF, 0x02000000⟩
  | .hret => ⟨0xFFFFFFFF, 0x03000000⟩
  | .tickNow => ⟨0xFFFFFFFF, 0x10000000⟩
  | .tickUntil _ => ⟨0xFFFFFFFF, 0x11000000⟩
  | .tickReached _ => ⟨0xFFFFFFFF, 0x12000000⟩
  | .tickWait _ => ⟨0xFFFFFFFF, 0x13000000⟩
  | .setCs _ => ⟨0xFFFFFFFE, 0x20000000⟩
  | .setRst _ => ⟨0xFFFFFFFC, 0x20100000⟩
  | .setRxtx _ => ⟨0xFFFFFFFE, 0x20200000⟩
  | .getLevel _ => ⟨0xFF0FFFFF, 0x21000000⟩
  | .spiXfer _ => ⟨0xFFFFFF00, 0x30000000⟩
  | .fatal _ _ => ⟨0xFF000000, 0xF0000000⟩

/-- The thirteen rows of R100, in the table's order. -/
def opcodeRows : List OpcodeRow :=
  [⟨0xFFFFFFFF, 0x01000000⟩, ⟨0xFFFFFFFF, 0x02000000⟩, ⟨0xFFFFFFFF, 0x03000000⟩, ⟨0xFFFFFFFF, 0x10000000⟩,
   ⟨0xFFFFFFFF, 0x11000000⟩, ⟨0xFFFFFFFF, 0x12000000⟩, ⟨0xFFFFFFFF, 0x13000000⟩] ++
  [⟨0xFFFFFFFE, 0x20000000⟩, ⟨0xFFFFFFFC, 0x20100000⟩, ⟨0xFFFFFFFE, 0x20200000⟩, ⟨0xFF0FFFFF, 0x21000000⟩,
   ⟨0xFFFFFF00, 0x30000000⟩, ⟨0xFF000000, 0xF0000000⟩]

/-- The extra constraint of a row (R100): the level of SET_RST is 0, 1 or 2, and the pin of GET_LEVEL is a legal code. The
rows of SET_CS and SET_RXTX already fix the high level bit. -/
def rowConstraint (numDio : Nat) (r : OpcodeRow) (cmd : Word) : Prop :=
  (r.pattern = 0x20100000 → cmd.extractLsb' 0 2 ≠ 3) ∧
  (r.pattern = 0x21000000 →
    (cmd.extractLsb' 20 4).toNat ≤ 2 ∨
      4 ≤ (cmd.extractLsb' 20 4).toNat ∧ (cmd.extractLsb' 20 4).toNat < 4 + numDio)

/-- A word matches a row (R100). -/
def matchesRow (numDio : Nat) (r : OpcodeRow) (cmd : Word) : Prop :=
  cmd &&& r.mask = r.pattern ∧ rowConstraint numDio r cmd

/-! ## The host's view of the decoder -/

/-- `CMD` of an instruction whose bits are `w`, of which `nbits` are given: bits 31..0 (whole words cross the port, R73). -/
def cmdOfBits (nbits w : Nat) : Word := BitVec.ofNat 32 (w % 2 ^ nbits)

/-- `ARG` of an instruction whose bits are `w`, of which `nbits` are given: bits 63..32. -/
def argOfBits (nbits w : Nat) : Word := BitVec.ofNat 32 ((w % 2 ^ nbits) >>> 32)

/-- The command the decoder reads from an instruction whose bits are `w`, with `NUM_DIO` as at `State.reset`. -/
def decodeTableWord (nbits w : Nat) : Option Instr :=
  match decode Params.atReset.numDio (cmdOfBits nbits w) (argOfBits nbits w) with
  | .instr i => some i
  | .fault _ => none

end Sys2Proof
end

