-- ==== Sys2Proof/Machine/State.lean ====
section
/-! DEFINITION. The state of the block (10_state.md R21 to R38), of its environment (R30, R34, R69) and of the host's command
stream (R22), as plain data; the reasons a step can stop; and the state after reset (70_reset_and_hazards.md R271). -/

namespace Sys2Proof.Machine

/-- One entry of `CFG_MAP` (R24): bit `U` and the physical pin number, which means nothing when `U` = 1. -/
structure PinCfg where
  unused : Bool
  pin : Nat
deriving DecidableEq, Repr

/-- `CFG_MODE` (R25): 0 is DedicatedLine, 1 is BusProbe. -/
inductive DispatchMode where
  | dedicatedLine
  | busProbe
deriving DecidableEq, Repr

/-- The configuration registers, latched at reset (R24, R25): registers 0, 1, 2, 4+i and 16. -/
structure Configuration where
  cs : PinCfg
  rst : PinCfg
  rxtx : PinCfg
  /-- `CFG_MAP[DIO i]`, in index order. -/
  dio : List PinCfg
  mode : DispatchMode
deriving DecidableEq, Repr

/-- `PMODE` (R32). -/
inductive PinMode where
  | input
  | output
deriving DecidableEq, Repr

/-- `PMODE[p]` and `POUT[p]` of a wired pin that can be driven (R32). -/
structure PinState where
  mode : PinMode
  out : Level
deriving DecidableEq, Repr

/-- The pin state of CS, RST and RXTX. An unused pin has none (R33). -/
structure PinBank where
  cs : Option PinState
  rst : Option PinState
  rxtx : Option PinState
deriving DecidableEq, Repr

/-- A frame of `DSTACK` (R31): a scan that resumes at line `r`, or a probe that is complete once the handler returns. -/
inductive Frame where
  | line (r : Nat)
  | probe
deriving DecidableEq, Repr

/-- The micro-step that a command in progress takes next (R66; the `step:` marks of R133 to R137, R153 to R156, R172, R190, R193 and
R222). -/
inductive Micro where
  /-- TICK_NOW samples the counter and responds (R133). -/
  | tickNow
  /-- TICK_UNTIL samples the counter and responds (R134). -/
  | tickUntil (deadline : Word)
  /-- TICK_REACHED samples the counter and responds (R135). -/
  | tickReached (deadline : Word)
  /-- SET_CS, SET_RST or SET_RXTX drives its wired pin and responds (R153, R154, R155). -/
  | drive (p : OutPin) (l : Level)
  /-- SET_RST F floats the wired reset pin and responds (R154). -/
  | float (p : OutPin)
  /-- GET_LEVEL reads a wired input and responds (R156). -/
  | read (p : Pin)
  /-- SPI_XFER exchanges its byte, and responds or fails (R172). -/
  | exchange (b : Byte)
  /-- `Scan(r)` (R190). -/
  | scan (r : Nat)
  /-- `Probe()` (R193), its five micro-steps in order. The last two carry the status byte `r2`. -/
  | probeAssert
  | probeCmd
  | probeDummy
  | probeRelease (status : Byte)
  | probeDecide (status : Byte)
  /-- `Fatal(TRANSPORT_FAULT, FATAL_LOC_TRANSPORT, 0)` after an exchange that failed (R172, R193, R222). -/
  | transportFatal
deriving DecidableEq, Repr

/-- `CTL` (R35). EXEC carries the micro-step that comes next. -/
inductive Ctl where
  | ready
  | exec (m : Micro)
  | waiting (deadline : Word)
  | faulted
  | halted
deriving DecidableEq, Repr

/-- `FLOG` (R37). -/
structure FatalLog where
  v : Bool
  loc : Word
  line : BitVec 24
deriving DecidableEq, Repr

/-- `EXT` (R34): the level the environment presents at each pin. -/
structure ExtLevels where
  cs : Level
  rst : Level
  rxtx : Level
  /-- `EXT[DIO i]`, in index order. -/
  dio : List Level
deriving DecidableEq, Repr

/-- What the environment holds: the counter and the pin levels, and its answers to the draws of the next micro-step. -/
structure Env where
  /-- `CNT` (R30), a number below 2^`CNT_W`. -/
  cnt : Nat
  /-- `EXT` (R34). -/
  ext : ExtLevels
  /-- The error bit the next exchange returns (R12, R69). -/
  busErr : Bool
  /-- The byte the next exchange returns (R12, R69). -/
  busByte : Byte
  /-- The level GET_LEVEL answers for an unused or an output-driven pin (R152, R156). -/
  anyLevel : Level
deriving DecidableEq, Repr

/-- A command as the host presents it: `CMD` and `ARG` together (R91). -/
structure HostCmd where
  cmd : Word
  arg : Word
deriving DecidableEq, Repr

/-- The events of a run (R79). -/
inductive Event where
  | drive (p : OutPin) (l : Level)
  | float (p : OutPin)
  | read (p : Pin) (l : Level)
  | cnt (v : Nat)
  | xfer (t : Byte) (err : Bool) (r : Byte)
  | dispatch (line : Nat)
  | done (data : Word)
  | log (loc : Word) (line : BitVec 24)
  | fault (c : Cause)
deriving DecidableEq, Repr

/-- All the environment does between two micro-steps, taken together (R66 to R69): how far `CNT` advances, the levels it
leaves at the pins (`none`, or a line beyond the list: unchanged), and its answers to the draws of the next micro-step. -/
structure EnvMove where
  advance : Nat := 0
  cs : Option Level := none
  rst : Option Level := none
  rxtx : Option Level := none
  dio : List Level := []
  busErr : Bool := false
  busByte : Byte := 0
  anyLevel : Level := false
deriving DecidableEq, Repr

/-- What a reset takes from outside: the configuration inputs (R276), the draws R271 and R274 leave unspecified, and the
command stream the host starts on afterwards (R278). -/
structure ResetInputs where
  cfg : Configuration
  /-- `POUT[CS]`, when CS is wired. -/
  csOut : Level
  /-- `POUT[RXTX]`, when RXTX is wired. -/
  rxtxOut : Level
  /-- `PMODE[RST]` and `POUT[RST]`, when RST is wired. -/
  rst : PinState
  rkind : BitVec 2
  rdata : Word
  host : List HostCmd
deriving DecidableEq, Repr

/-- What comes from outside before the next micro-step: the environment's moves, or its moves and then a reset (R278). -/
inductive Input where
  | move (m : EnvMove)
  | reset (m : EnvMove) (r : ResetInputs)
deriving DecidableEq, Repr

/-- The state. The fields down to `rdata` are the block's (10_state.md, 30_encoding.md R91), `env` is the environment's, `host`
the host's, and `history` the record of R79. `inputs` and `drawIndex` are the model's own (log entries 4 and 5). -/
structure State where
  /-- The parameters of R8; no step changes them. -/
  params : Params
  /-- `CFG_MAP` and `CFG_MODE` (R24, R25). -/
  cfg : Configuration
  /-- `NEST` (R27). -/
  nest : BitVec 32
  /-- `EDGE`, in index order (R29). -/
  edge : List Level
  /-- `DSTACK`, most recent first (R31). -/
  dstack : List Frame
  /-- `CTL` (R35). -/
  ctl : Ctl
  /-- `PMODE` and `POUT` (R32). -/
  pins : PinBank
  /-- `FCAUSE` (R36). -/
  fcause : BitVec 8
  /-- `FINFO` (R36). -/
  finfo : Word
  /-- `FLOG` (R37). -/
  flog : FatalLog
  /-- `RKIND` (R91, R95). -/
  rkind : BitVec 2
  /-- `RDATA` (R91, R95). -/
  rdata : Word
  /-- The environment's state. -/
  env : Env
  /-- The commands the host has still to issue, the next one first (R22, R62). -/
  host : List HostCmd
  /-- The event history (R79), most recent first. -/
  history : List Event
  /-- What comes from outside before each of the next steps; when it is empty, the free values of `Config` do. -/
  inputs : List Input
  /-- How many steps have used the free values. -/
  drawIndex : Nat
deriving DecidableEq, Repr

/-- The reasons the block has no step. -/
inductive Fault where
  /-- Raised by `step` when `CTL` is FAULTED and no reset comes: the block has no step (R64, R234; I16). Safe. -/
  | stoppedFaulted
  /-- Raised by `step` when `CTL` is HALTED and no reset comes: the block has no step (R64, R223; I16). Safe. -/
  | stoppedHalted
deriving DecidableEq, Repr

/-- The reasons the model gives no run. -/
inductive Refusal where
  /-- Raised by an arm of `exec` for a command that has no meaning yet. Safe. -/
  | notModelled (mnemonic : String)
  /-- Raised by `step` when a parameter is outside its range (R8, R131; I13). Safe. -/
  | illegalParameters
  /-- Raised by `step` when the configuration, or one that a reset latches, is illegal (R26, R276; I12). Safe. -/
  | illegalConfiguration
deriving DecidableEq, Repr

/-- What a step answers. -/
abbrev Result := Host.Outcome State Fault Refusal

/-- The state right after a reset (R271 to R277): every block element at its reset value, the unspecified ones as the reset
inputs draw them, the environment as it is (R277). A run starts here, so the history is empty (R278). -/
def State.boot (p : Params) (r : ResetInputs) (env : Env) (inputs : List Input) (drawIndex : Nat) : State where
  params := p
  cfg := r.cfg
  nest := 0
  edge := List.replicate p.numDio false
  dstack := []
  ctl := .ready
  pins :=
    { cs := if r.cfg.cs.unused then none else some ⟨.output, r.csOut⟩
      rst := if r.cfg.rst.unused then none else some r.rst
      rxtx := if r.cfg.rxtx.unused then none else some ⟨.output, r.rxtxOut⟩ }
  fcause := 0
  finfo := 0
  flog := ⟨false, 0, 0⟩
  rkind := r.rkind
  rdata := r.rdata
  env := env
  host := r.host
  history := []
  inputs := inputs
  drawIndex := drawIndex

/-- The configuration of test configuration TC0 (95_test_vectors.md), with physical pins 0 to 5. DESIGN CHOICE (unsafe), log
entry 2. -/
def Configuration.atReset : Configuration where
  cs := ⟨false, 0⟩
  rst := ⟨false, 1⟩
  rxtx := ⟨false, 2⟩
  dio := [⟨false, 3⟩, ⟨false, 4⟩, ⟨false, 5⟩]
  mode := .dedicatedLine

/-- The reset inputs of `State.reset`: the draws that 95_test_vectors.md fixes, and 0 where it fixes none; no command yet.
DESIGN CHOICE (unsafe), log entry 3. -/
def ResetInputs.atReset : ResetInputs where
  cfg := Configuration.atReset
  csOut := true
  rxtxOut := true
  rst := ⟨.input, false⟩
  rkind := 0
  rdata := 0
  host := []

/-- The environment of `State.reset`: `CNT` = 0 and every level 0. DESIGN CHOICE (unsafe), log entry 3. -/
def Env.atReset : Env where
  cnt := 0
  ext := ⟨false, false, false, [false, false, false]⟩
  busErr := false
  busByte := 0
  anyLevel := false

/-- The machine right after reset: READY, waiting for the first host command (R279). -/
def State.reset : State :=
  State.boot Params.atReset ResetInputs.atReset Env.atReset [] 0

end Sys2Proof.Machine
end

