-- ==== Sys2Proof/Machine/Operands.lean ====
section
/-! DEFINITION. Reading what a command names: configuration entries, pin state, external and edge levels (10_state.md R24 to R34),
and when parameters and a configuration are legal (R8, R26). -/

namespace Sys2Proof.Machine

/-- The bounds R8 puts on the parameters: `CNT_W >= 32 + TICK_SHIFT` (R131), `NUM_DIO <= 12` (R101), `DISPATCH_DEPTH_MAX >= 1`. -/
def paramsLegal (p : Params) : Bool :=
  decide (32 + p.tickShift ≤ p.cntW) && decide (p.numDio ≤ 12) && decide (1 ≤ p.dispatchDepthMax)

/-- The physical pins of the wired entries (R24). -/
def wiredPinNumbers (c : Configuration) : List Nat :=
  (c.cs :: c.rst :: c.rxtx :: c.dio).filterMap fun e => if e.unused then none else some e.pin

/-- No DIO line is wired (R26). -/
def noLineWired (c : Configuration) : Bool := c.dio.all fun e => e.unused

/-- A legal configuration (R26): one entry for each DIO line; pin numbers of `PHYS_PIN_W` bits (R24); BusProbe exactly when no
DIO line is wired; no two wired logical pins with the same physical pin. -/
def configLegal (p : Params) (c : Configuration) : Bool :=
  decide (c.dio.length = p.numDio) &&
  (wiredPinNumbers c).all (fun n => decide (n < 2 ^ p.physPinW)) &&
  (decide (c.mode = .busProbe) == noLineWired c) &&
  decide (wiredPinNumbers c).Nodup

/-- `CFG_MAP` of a pin that can be driven. -/
def outCfg (c : Configuration) : OutPin → PinCfg
  | .cs => c.cs
  | .rst => c.rst
  | .rxtx => c.rxtx

/-- Whether a pin that can be driven is wired (R17, R24). -/
def outWired (s : State) (p : OutPin) : Bool := !(outCfg s.cfg p).unused

/-- Whether DIO line `i` exists and is wired (R17, R24). -/
def dioWired (s : State) (i : Nat) : Bool :=
  match s.cfg.dio[i]? with
  | some e => !e.unused
  | none => false

/-- The state of a pin that can be driven; none when the pin is unused (R32, R33). -/
def PinBank.get (b : PinBank) : OutPin → Option PinState
  | .cs => b.cs
  | .rst => b.rst
  | .rxtx => b.rxtx

/-- The bank with the state of one pin replaced. -/
def PinBank.set (b : PinBank) (p : OutPin) (v : Option PinState) : PinBank :=
  match p with
  | .cs => { b with cs := v }
  | .rst => { b with rst := v }
  | .rxtx => { b with rxtx := v }

/-- `EXT` of a pin (R34). -/
def extLevel (e : ExtLevels) : Pin → Level
  | .out .cs => e.cs
  | .out .rst => e.rst
  | .out .rxtx => e.rxtx
  | .dio i => e.dio.getD i false

/-- `EDGE[i]` (R29). -/
def edgeLevel (s : State) (i : Nat) : Level := s.edge.getD i false

/-- The first wired line from `r` on, the line a scan at `r` samples next (R189, R190). -/
def nextWired (s : State) (r : Nat) : Option Nat :=
  (List.range s.params.numDio).find? fun i => decide (r ≤ i) && dioWired s i

/-- Whether line `i` is pending (R38): derived, not stored. -/
def pending (s : State) (i : Nat) : Bool :=
  dioWired s i && !edgeLevel s i && extLevel s.env.ext (.dio i)

end Sys2Proof.Machine
end

