-- ==== Sys2Proof/Machine/Flags.lean ====
section
/-! DEFINITION. The block has no flags (10_state.md R23): a command's outcome is its response kind and data (30_encoding.md R95).
This file holds those codes, the cause codes (60_exceptions.md R232), what `STOP` shows (R91), the tick and its comparator
(40_tick_clock.md R131, R132), and the coordinator's implicit states (R28). -/

namespace Sys2Proof.Machine

/-- The response kinds that are produced (R95). -/
inductive RespKind where
  | done
  | dispatch
deriving DecidableEq, Repr

/-- `RKIND` of a response kind (R95). -/
def rkindCode : RespKind → BitVec 2
  | .done => 0
  | .dispatch => 1

/-- The cause codes (R232). -/
def causeCode : Cause → BitVec 8
  | .illegalOpcode => 0x01
  | .reservedBits => 0x02
  | .illegalOperand => 0x03
  | .hretNoDispatch => 0x04
  | .hretUnbalanced => 0x05
  | .nestUnderflow => 0x06
  | .nestOverflow => 0x07
  | .dispatchDepth => 0x08
  | .transportFault => 0x10
  | .reportFatal => 0x11

/-- The `STOP` output (R91): 1 in FAULTED, 2 in HALTED, else 0. -/
def stopCode (s : State) : BitVec 2 :=
  match s.ctl with
  | .faulted => 1
  | .halted => 2
  | .ready | .exec _ | .waiting _ => 0

/-- `zext_32` of a one-bit value (R10). -/
def levelWord (l : Level) : Word := if l then 1 else 0

/-- `zext_32` of a byte (R10). -/
def byteWord (b : Byte) : Word := b.zeroExtend 32

/-- `zext_32` of a line index (R95). -/
def lineWord (i : Nat) : Word := BitVec.ofNat 32 i

/-- `tick(c)` (R131): bits `TICK_SHIFT`+31 .. `TICK_SHIFT` of a counter sample. -/
def tick (p : Params) (c : Nat) : Word := BitVec.ofNat 32 (c >>> p.tickShift)

/-- `delta(d, n)` (R132). -/
def delta (d n : Word) : Word := d - n

/-- `reached(d, n)` (R132): `signed32(delta(d, n)) <= 0`. -/
def reached (d n : Word) : Bool := decide ((delta d n).toInt ≤ 0)

/-- The coordinator's states (R28): Live, or Deferred(n) with n > 0. -/
inductive CoordinatorState where
  | live
  | deferred (n : Nat)
deriving DecidableEq, Repr

/-- The coordinator's state is implicit in `NEST` (R28). -/
def coordinatorState (s : State) : CoordinatorState :=
  if s.nest = 0 then .live else .deferred s.nest.toNat

end Sys2Proof.Machine
end

