-- ==== Sys2Proof/Machine/Ops.lean ====
section
/-! DEFINITION. The named operations over the state: the environment primitives (00_scope.md R12), responses (30_encoding.md R95),
raising a fault (60_exceptions.md R233), dispatch entry (43_interrupt_coordinator.md R192, 60_exceptions.md R238) and the return's
resumption (R196), the fatal path (44_fatal.md R222), the micro-steps of a check (R190, R193), the environment's moves (R67, R68,
R69) and a reset within a run (R275, R278). -/

namespace Sys2Proof.Machine

/-! ## Events, responses, faults -/

/-- Record an event (R79). -/
def record (e : Event) (s : State) : State := { s with history := e :: s.history }

/-- `Respond(DONE, d)` (R12, R95): the response registers, READY, and the event. -/
def respondDone (d : Word) (s : State) : State :=
  { s with rkind := rkindCode .done, rdata := d, ctl := .ready, history := .done d :: s.history }

/-- `Respond(DISPATCH, zext_32(line))` (R95, R192). -/
def respondDispatch (line : Nat) (s : State) : State :=
  { s with
    rkind := rkindCode .dispatch, rdata := lineWord line, ctl := .ready, history := .dispatch line :: s.history }

/-- `raise Fault(cause, info)` (R233): TAKING AN EXCEPTION of this block. It writes `FCAUSE`, `FINFO` and `CTL`, and nothing
else but the event of R79. -/
def raiseFault (c : Cause) (info : Word) (s : State) : State :=
  { s with fcause := causeCode c, finfo := info, ctl := .faulted, history := .fault c :: s.history }

/-- `NEST` after the fatal path's "disabling interrupts" (R222): one more, saturating. -/
def nestSaturating (n : BitVec 32) : BitVec 32 := if n = BitVec.allOnes 32 then n else n + 1

/-- `Fatal(cause, loc, line)` (R222): one micro-step. -/
def fatalHalt (c : Cause) (loc : Word) (line : BitVec 24) (s : State) : State :=
  { s with
    flog := ⟨true, loc, line⟩, nest := nestSaturating s.nest, fcause := causeCode c, finfo := loc, ctl := .halted,
    history := .log loc line :: s.history }

/-- The next micro-step of the command in progress (R35, R66). -/
def continueAt (m : Micro) (s : State) : State := { s with ctl := .exec m }

/-! ## Environment primitives (R12) -/

/-- `PinDrive(p, l)`: output mode and the level at once (R159). -/
def pinDrive (p : OutPin) (l : Level) (s : State) : State :=
  { s with pins := s.pins.set p (some ⟨.output, l⟩), history := .drive p l :: s.history }

/-- `PinFloat(p)`: input mode; `POUT[p]` is unchanged (R154). -/
def pinFloat (p : OutPin) (s : State) : State :=
  { s with
    pins := s.pins.set p ((s.pins.get p).map fun q => { q with mode := .input }), history := .float p :: s.history }

/-- The state after `PinRead(p)`, which returns `extLevel s.env.ext p`: the event alone. -/
def pinRead (p : Pin) (s : State) : State := record (.read p (extLevel s.env.ext p)) s

/-- The state after `ReadCounter()`, which returns `s.env.cnt`: the event alone (R30, R75). -/
def readCounter (s : State) : State := record (.cnt s.env.cnt) s

/-- The state after `SpiExchange(t)`, which returns `(s.env.busErr, s.env.busByte)`: the event alone. -/
def spiExchange (t : Byte) (s : State) : State := record (.xfer t s.env.busErr s.env.busByte) s

/-! ## Dispatch -/

/-- `Dispatch(f, line)` (R192): dispatch entry. It pushes a frame and responds; beyond `DISPATCH_DEPTH_MAX` it raises
DISPATCH_DEPTH instead (R237, R239). -/
def dispatch (f : Frame) (line : Nat) (s : State) : State :=
  if s.dstack.length = s.params.dispatchDepthMax then raiseFault .dispatchDepth (lineWord line) s
  else respondDispatch line { s with dstack := f :: s.dstack }

/-- Start the dispatch check of IRQ_ENABLE (R182, R185): `Scan(0)` or `Probe()`. -/
def startCheck (s : State) : State :=
  match s.cfg.mode with
  | .dedicatedLine => continueAt (.scan 0) s
  | .busProbe => continueAt .probeAssert s

/-- Resume the check of a popped frame (R196): the return from a dispatch. -/
def resumeFrame (f : Frame) (s : State) : State :=
  match f with
  | .line r => continueAt (.scan r) s
  | .probe => respondDone 0 s

/-! ## The micro-steps of a check -/

/-- Sample wired line `i` (R190): the read, the update of `EDGE[i]` and a dispatch are one micro-step. -/
def sampleLine (i : Nat) (s : State) : State :=
  let l := extLevel s.env.ext (.dio i)
  if l = edgeLevel s i then continueAt (.scan (i + 1)) (pinRead (.dio i) s)
  else
    let s' := { pinRead (.dio i) s with edge := s.edge.set i l }
    if l then dispatch (.line (i + 1)) i s' else continueAt (.scan (i + 1)) s'

/-- One micro-step of `Scan(r)` (R190): sample the next wired line, or complete. -/
def scanStep (r : Nat) (s : State) : State :=
  match nextWired s r with
  | some i => sampleLine i s
  | none => respondDone 0 s

/-- The chip-select drives of the probe (R193): skipped when CS is unused. -/
def probeDrive (l : Level) (s : State) : State :=
  if outWired s .cs then pinDrive .cs l s else s

/-- An exchange of the probe (R193): an error leads to the fatal path, else the probe continues. -/
def probeExchange (t : Byte) (ok : Micro) (s : State) : State :=
  continueAt (if s.env.busErr then .transportFatal else ok) (spiExchange t s)

/-- The decision of the probe (R193, R194): a non-zero status dispatches line 0. -/
def probeDecide (status : Byte) (s : State) : State :=
  if status = 0 then respondDone 0 s else dispatch .probe 0 s

/-! ## The environment's moves -/

/-- New levels over old ones; lines beyond the new list keep theirs. -/
def overlay : List Level → List Level → List Level
  | [], _ => []
  | o :: os, [] => o :: os
  | _ :: os, n :: ns => n :: overlay os ns

/-- The environment after its moves (R67 to R69). `CNT` advances modulo 2^`CNT_W`. -/
def moveEnv (p : Params) (m : EnvMove) (e : Env) : Env where
  cnt := (e.cnt + m.advance) % 2 ^ p.cntW
  ext :=
    { cs := m.cs.getD e.ext.cs
      rst := m.rst.getD e.ext.rst
      rxtx := m.rxtx.getD e.ext.rxtx
      dio := overlay e.ext.dio m.dio }
  busErr := m.busErr
  busByte := m.busByte
  anyLevel := m.anyLevel

/-- The state after the environment's moves: no block state changes. -/
def applyMove (m : EnvMove) (s : State) : State := { s with env := moveEnv s.params m s.env }

/-- The environment's moves as free values (R13): any advance, any levels, any answers. -/
def freeMove (numDio k : Nat) : EnvMove where
  advance := Config.freeAdvance k
  cs := some (Config.freeLevel k 0)
  rst := some (Config.freeLevel k 1)
  rxtx := some (Config.freeLevel k 2)
  dio := (List.range numDio).map fun i => Config.freeLevel k (4 + i)
  busErr := Config.freeBusErr k
  busByte := Config.freeBusByte k
  anyLevel := Config.freeAnyLevel k

/-- A reset within a run (R275, R277, R278): every block element to its reset value in one step, the command in progress and the
outstanding dispatches forgotten, the environment kept; a new run starts. -/
def takeReset (r : ResetInputs) (s : State) : State :=
  State.boot s.params r s.env s.inputs s.drawIndex

end Sys2Proof.Machine
end

