-- ==== Sys2Proof/Machine/Bus.lean ====
section
/-! DEFINITION. The Bus Transactor command (42_bus_transactor.md): what decoding does, and the exchange that follows. -/

namespace Sys2Proof.Machine

/-- The exchange of SPI_XFER (R172), whatever the state of chip-select (R173). On a transport error the fatal path is the next
micro-step (R222). DEDUCED, log entry 7. -/
def exchangeAndRespond (b : Byte) (s : State) : State :=
  if s.env.busErr then continueAt .transportFatal (spiExchange b s)
  else respondDone (byteWord s.env.busByte) (spiExchange b s)

/-- SPI_XFER (R172). -/
def execSpiXfer (b : Byte) (s : State) : Result := .next (continueAt (.exchange b) s)

end Sys2Proof.Machine
end

