-- ==== Sys2Proof/Machine/Fatal.lean ====
section
/-! DEFINITION. The fatal report command (44_fatal.md). -/

namespace Sys2Proof.Machine

/-- FATAL (R221): the fatal path with cause REPORT_FATAL; it gives no response. -/
def execFatal (loc : Word) (line : BitVec 24) (s : State) : Result :=
  .next (fatalHalt .reportFatal loc line s)

end Sys2Proof.Machine
end

