-- ==== Sys2Proof/Machine/Interrupt.lean ====
section
/-! DEFINITION. The Interrupt Coordinator commands (43_interrupt_coordinator.md). A check that one of them starts or resumes runs on
in `microStep`, one micro-step a step. -/

namespace Sys2Proof.Machine

/-- IRQ_DISABLE (R184). -/
def execIrqDisable (s : State) : Result :=
  .next
    (if s.nest = BitVec.allOnes 32 then raiseFault .nestOverflow s.nest s
    else respondDone 0 { s with nest := s.nest + 1 })

/-- IRQ_ENABLE at `NEST` = 0 (R186). -/
def unmatchedEnable (s : State) : State :=
  match s.params.underflowPolicy with
  | .clamp => respondDone 0 s
  | .fault => raiseFault .nestUnderflow 0 s

/-- IRQ_ENABLE (R185). -/
def execIrqEnable (s : State) : Result :=
  .next
    (if s.nest = 0 then unmatchedEnable s
    else if s.nest = 1 then startCheck { s with nest := 0 }
    else respondDone 0 { s with nest := s.nest - 1 })

/-- HRET (R196, R197): HRET_NO_DISPATCH is checked before HRET_UNBALANCED (R235). -/
def execHret (s : State) : Result :=
  .next
    (match s.dstack with
    | [] => raiseFault .hretNoDispatch 0 s
    | f :: rest =>
      if s.nest = 0 then resumeFrame f { s with dstack := rest }
      else raiseFault .hretUnbalanced s.nest s)

end Sys2Proof.Machine
end

