-- ==== Sys2Proof/Machine/Pins.lean ====
section
/-! DEFINITION. The Pin Control commands (41_pin_control.md): what decoding does, and the micro-step that follows when the pin is
wired. -/

namespace Sys2Proof.Machine

/-- The micro-step of a pin-set command of level 0 or 1 (R153, R154, R155). -/
def driveAndRespond (p : OutPin) (l : Level) (s : State) : State := respondDone 0 (pinDrive p l s)

/-- The micro-step of SET_RST F (R154). -/
def floatAndRespond (p : OutPin) (s : State) : State := respondDone 0 (pinFloat p s)

/-- A pin-set command on `p`, decoded: micro-step `m` follows when `p` is wired; an unused pin is a no-op that never fails (R152). -/
def setPin (p : OutPin) (m : Micro) (s : State) : State :=
  if outWired s p then continueAt m s else respondDone 0 s

/-- The micro-step of GET_LEVEL on a wired input: read it and respond with its external level (R156). -/
def readAndRespond (p : Pin) (s : State) : State :=
  respondDone (levelWord (extLevel s.env.ext p)) (pinRead p s)

/-- Respond with a level nothing constrains (R152, R156): no environment primitive, no fault. -/
def anyLevelAndRespond (s : State) : State := respondDone (levelWord s.env.anyLevel) s

/-- Whether a pin that can be driven is wired and in input mode (R156). -/
def outReadable (s : State) (p : OutPin) : Bool :=
  outWired s p &&
  match s.pins.get p with
  | some q => decide (q.mode = .input)
  | none => false

/-- SET_CS (R153). -/
def execSetCs (l : Level) (s : State) : Result := .next (setPin .cs (.drive .cs l) s)

/-- SET_RST (R154). -/
def execSetRst (l : RstLevel) (s : State) : Result :=
  .next
    (match l with
    | .drive b => setPin .rst (.drive .rst b) s
    | .floating => setPin .rst (.float .rst) s)

/-- SET_RXTX (R155). -/
def execSetRxtx (l : Level) (s : State) : Result := .next (setPin .rxtx (.drive .rxtx l) s)

/-- GET_LEVEL (R156). A line that does not exist is ILLEGAL_OPERAND; decoding has raised it already (R105), so this case is
reached by no word. -/
def execGetLevel (p : Pin) (s : State) : Result :=
  .next
    (match p with
    | .out q => if outReadable s q then continueAt (.read (.out q)) s else anyLevelAndRespond s
    | .dio i =>
      if i < s.params.numDio then
        if dioWired s i then continueAt (.read (.dio i)) s else anyLevelAndRespond s
      else raiseFault .illegalOperand (encodeCmd (.getLevel (.dio i))) s)

end Sys2Proof.Machine
end

