-- ==== Sys2Proof/Machine/Tick.lean ====
section
/-! DEFINITION. The Tick Clock commands (40_tick_clock.md): what decoding does, and the micro-step that follows. The sample and the
response are one micro-step (R133). -/

namespace Sys2Proof.Machine

/-- The micro-step of TICK_NOW (R133). -/
def tickNowSample (s : State) : State :=
  respondDone (tick s.params s.env.cnt) (readCounter s)

/-- The micro-step of TICK_UNTIL (R134). -/
def tickUntilSample (deadline : Word) (s : State) : State :=
  respondDone (delta deadline (tick s.params s.env.cnt)) (readCounter s)

/-- The micro-step of TICK_REACHED (R135). -/
def tickReachedSample (deadline : Word) (s : State) : State :=
  respondDone (levelWord (reached deadline (tick s.params s.env.cnt))) (readCounter s)

/-- One sample of TICK_WAIT (R137): complete when the deadline is reached, else wait on. -/
def waitSample (deadline : Word) (s : State) : State :=
  if reached deadline (tick s.params s.env.cnt) then respondDone 0 (readCounter s)
  else { readCounter s with ctl := .waiting deadline }

/-- TICK_NOW (R133). -/
def execTickNow (s : State) : Result := .next (continueAt .tickNow s)

/-- TICK_UNTIL (R134). -/
def execTickUntil (deadline : Word) (s : State) : Result := .next (continueAt (.tickUntil deadline) s)

/-- TICK_REACHED (R135). -/
def execTickReached (deadline : Word) (s : State) : Result := .next (continueAt (.tickReached deadline) s)

/-- TICK_WAIT (R137): the block is WAITING before its first sample, which is the next micro-step. -/
def execTickWait (deadline : Word) (s : State) : Result := .next { s with ctl := .waiting deadline }

end Sys2Proof.Machine
end

