-- ==== Sys2Proof/Machine/Dispatch.lean ====
section
/-! DEFINITION. The dispatch: one arm per constructor of Instr, each a direct call of that command's meaning. -/

namespace Sys2Proof.Machine

/-- What a command does in the micro-step that decodes it (R66, R105): its whole effect when it does no environment primitive, else
what comes before the first one, which is the next micro-step. -/
def exec (i : Instr) (s : State) : Host.Outcome State Fault Refusal :=
  match i with
  | .irqDisable => Sys2Proof.Machine.execIrqDisable s
  | .irqEnable => Sys2Proof.Machine.execIrqEnable s
  | .hret => Sys2Proof.Machine.execHret s
  | .tickNow => Sys2Proof.Machine.execTickNow s
  | .tickUntil deadline => Sys2Proof.Machine.execTickUntil deadline s
  | .tickReached deadline => Sys2Proof.Machine.execTickReached deadline s
  | .tickWait deadline => Sys2Proof.Machine.execTickWait deadline s
  | .setCs l => Sys2Proof.Machine.execSetCs l s
  | .setRst l => Sys2Proof.Machine.execSetRst l s
  | .setRxtx l => Sys2Proof.Machine.execSetRxtx l s
  | .getLevel p => Sys2Proof.Machine.execGetLevel p s
  | .spiXfer b => Sys2Proof.Machine.execSpiXfer b s
  | .fatal loc line => Sys2Proof.Machine.execFatal loc line s

end Sys2Proof.Machine
end

