-- ==== Sys2Proof/Machine/Micro.lean ====
section
/-! DEFINITION. The micro-steps of a command in progress (20_memory.md R66). -/

namespace Sys2Proof.Machine

/-- One micro-step of a command in progress (R66): an environment primitive with the updates of its own `step:`, or the last
response of a check, or the fatal path. -/
def microStep (m : Micro) (s : State) : State :=
  match m with
  | .tickNow => tickNowSample s
  | .tickUntil deadline => tickUntilSample deadline s
  | .tickReached deadline => tickReachedSample deadline s
  | .drive p l => driveAndRespond p l s
  | .float p => floatAndRespond p s
  | .read p => readAndRespond p s
  | .exchange b => exchangeAndRespond b s
  | .scan r => scanStep r s
  | .probeAssert => continueAt .probeCmd (probeDrive s.params.csActive s)
  | .probeCmd => probeExchange s.params.probeCmd .probeDummy s
  | .probeDummy => probeExchange s.params.probeDummy (.probeRelease s.env.busByte) s
  | .probeRelease status => continueAt (.probeDecide status) (probeDrive (!s.params.csActive) s)
  | .probeDecide status => probeDecide status s
  | .transportFatal => fatalHalt .transportFault fatalLocTransport 0 s

end Sys2Proof.Machine
end

