-- ==== Sys2Proof/Machine/Issue.lean ====
section
/-! DEFINITION. The block's step after the environment's moves: issuing the host's next command (20_memory.md R62, R63, R65), or
one micro-step of the command in progress; and presenting a command at the port. -/

namespace Sys2Proof.Machine

/-- Issue a command (R91, R105): decode it, and run it or raise its decode fault with `FINFO` = `CMD`. -/
def issue (c : HostCmd) (s : State) : Result :=
  match decode s.params.numDio c.cmd c.arg with
  | .instr i => exec i s
  | .fault cause => .next (raiseFault cause c.cmd s)

/-- One step of the block. READY issues the host's next command, or waits for one (R76, R279); EXEC and WAITING take the next
micro-step; FAULTED and HALTED have no step (R64). -/
def blockStep (s : State) : Result :=
  match s.ctl with
  | .ready =>
    match s.host with
    | [] => .next s
    | c :: rest => issue c { s with host := rest }
  | .exec m => .next (microStep m s)
  | .waiting deadline => .next (waitSample deadline s)
  | .faulted => .fault .stoppedFaulted
  | .halted => .fault .stoppedHalted

/-- The reset that comes from outside before the next micro-step, if one does (R278). -/
def pendingReset (s : State) : Option ResetInputs :=
  match s.inputs with
  | .reset _ r :: _ => some r
  | .move _ :: _ | [] => none

/-- The state after the environment's moves of this step (R66): those of the next input, or free ones when there is no input. -/
def moved (s : State) : State :=
  match s.inputs with
  | .reset m _ :: rest => applyMove m { s with inputs := rest }
  | .move m :: rest => applyMove m { s with inputs := rest }
  | [] => applyMove (freeMove s.params.numDio s.drawIndex) { s with drawIndex := s.drawIndex + 1 }

/-- Take a reset that comes from outside; one that latches an illegal configuration is refused (R26, R276). -/
def resetStep (r : ResetInputs) (s : State) : Result :=
  if configLegal s.params r.cfg then .next (takeReset r s) else .refused .illegalConfiguration

/-- One step: the environment's moves first, then a reset if one comes, else the block (R66, R278). -/
def outsideStep (s : State) : Result :=
  match pendingReset s with
  | some r => resetStep r (moved s)
  | none => blockStep (moved s)

/-- The inputs from the first one on that is not a reset. -/
def dropResets : List Input → List Input
  | .reset _ _ :: rest => dropResets rest
  | .move m :: rest => .move m :: rest
  | [] => []

/-- Put a command at the head of the host's stream, with the block READY and no reset before it, so that the next step issues
it. -/
def presentCommand (c : HostCmd) (s : State) : State :=
  { s with ctl := .ready, host := c :: s.host, inputs := dropResets s.inputs }

end Sys2Proof.Machine
end

