-- ==== Sys2Proof/Machine/Step.lean ====
section
/-! DEFINITION. The step of the machine, and placing a command where the next step takes it. -/

namespace Sys2Proof.Machine

/-- One step (R66). A machine with parameters outside their ranges or with an illegal configuration has no run (R26, I13). -/
def step (s : State) : Host.Outcome State Fault Refusal :=
  if paramsLegal s.params = false then .refused .illegalParameters
  else if configLegal s.params s.cfg = false then .refused .illegalConfiguration
  else outsideStep s

/-- `s` with the command whose bits are `w` (`CMD` bits 31..0, `ARG` bits 63..32) presented by the host, so that the next step
issues exactly it (log entry 13). -/
def State.withFetchWord (s : State) (nbits w : Nat) : State :=
  presentCommand ⟨cmdOfBits nbits w, argOfBits nbits w⟩ s

end Sys2Proof.Machine
end

