-- ==== Sys2Proof/Safety.lean ====
section
/-! DEFINITION. What claims say of states and runs: the invariant of the machine, complete runs (20_memory.md R80), and the two
assumptions on the counter (R67). -/

namespace Sys2Proof.Machine

/-- A frame fits the machine (R31): a scan resumes at a line 0 <= r <= `NUM_DIO` in DedicatedLine mode, a probe is of BusProbe
mode. -/
def frameLegal (s : State) : Frame → Bool
  | .line r => decide (r ≤ s.params.numDio) && decide (s.cfg.mode = .dedicatedLine)
  | .probe => decide (s.cfg.mode = .busProbe)

/-- What holds while each micro-step is the next one: a pin that is driven, floated or read is wired, and only the reset pin floats
(R152 to R156); a check runs with `NEST` = 0, in its own mode (R185, R188, R196). -/
def microLegal (s : State) : Micro → Bool
  | .tickNow | .tickUntil _ | .tickReached _ | .exchange _ => true
  | .drive p _ => outWired s p
  | .float p => decide (p = .rst) && outWired s p
  | .read (.out p) => outReadable s p
  | .read (.dio i) => dioWired s i
  | .scan r =>
    decide (r ≤ s.params.numDio) && decide (s.nest = 0) && decide (s.cfg.mode = .dedicatedLine)
  | .probeAssert | .probeCmd | .probeDummy | .probeRelease _ | .probeDecide _ =>
    decide (s.nest = 0) && decide (s.cfg.mode = .busProbe)
  | .transportFatal => true

/-- What holds in each control state. -/
def ctlLegal (s : State) : Bool :=
  match s.ctl with
  | .ready | .waiting _ | .faulted | .halted => true
  | .exec m => microLegal s m

/-- What the stop registers hold (R36, R37, R232): their reset values while the block runs; in FAULTED a code below 0x10 that is
not NONE and no log; in HALTED a fatal code and the log. -/
def stopRegistersLegal (s : State) : Bool :=
  match s.ctl with
  | .ready | .exec _ | .waiting _ =>
    decide (s.fcause = 0) && decide (s.finfo = 0) && decide (s.flog = ⟨false, 0, 0⟩)
  | .faulted => decide (s.fcause ≠ 0) && decide (s.fcause.toNat ≤ 8) && decide (s.flog = ⟨false, 0, 0⟩)
  | .halted =>
    (decide (s.fcause = 0x10) || decide (s.fcause = 0x11)) && s.flog.v && decide (s.finfo = s.flog.loc)

/-- The invariant of the machine: reset gives it and every step keeps it. -/
structure State.Inv (s : State) : Prop where
  /-- R8, R131. -/
  params_legal : paramsLegal s.params = true
  /-- R26. -/
  config_legal : configLegal s.params s.cfg = true
  /-- R29. -/
  edge_length : s.edge.length = s.params.numDio
  /-- R29: an unused line's `EDGE` stays 0. -/
  edge_unused : ∀ i, i < s.params.numDio → dioWired s i = false → edgeLevel s i = false
  /-- R34. -/
  ext_length : s.env.ext.dio.length = s.params.numDio
  /-- R30. -/
  cnt_width : s.env.cnt < 2 ^ s.params.cntW
  /-- R31. -/
  stack_depth : s.dstack.length ≤ s.params.dispatchDepthMax
  /-- R31. -/
  stack_frames : ∀ f ∈ s.dstack, frameLegal s f = true
  /-- R32, R33: a pin has a state exactly when it is wired. -/
  cs_present : s.pins.cs.isSome = outWired s .cs
  rst_present : s.pins.rst.isSome = outWired s .rst
  rxtx_present : s.pins.rxtx.isSome = outWired s .rxtx
  /-- R274: CS and RXTX are outputs; no command makes them inputs. -/
  cs_output : (s.pins.cs.all fun q => decide (q.mode = .output)) = true
  rxtx_output : (s.pins.rxtx.all fun q => decide (q.mode = .output)) = true
  /-- R35. -/
  ctl_legal : ctlLegal s = true
  /-- R36, R37. -/
  stop_registers : stopRegistersLegal s = true

/-- A complete run ends here (R80): no command left, READY, no dispatch outstanding, no fault and no fatal report. -/
def State.complete (s : State) : Prop :=
  s.host = [] ∧ s.ctl = .ready ∧ s.dstack = [] ∧ s.fcause = 0 ∧ s.flog.v = false

/-- The block is stopped (R234, R223). -/
def State.stopped (s : State) : Prop := s.ctl = .faulted ∨ s.ctl = .halted

/-- A response to the host (R79, R95). -/
def Event.isResponse : Event → Bool
  | .done _ | .dispatch _ => true
  | .drive _ _ | .float _ | .read _ _ | .cnt _ | .xfer _ _ _ | .log _ _ | .fault _ => false

/-- An environment primitive (R12, R79). -/
def Event.isPrimitive : Event → Bool
  | .drive _ _ | .float _ | .read _ _ | .cnt _ | .xfer _ _ _ => true
  | .dispatch _ | .done _ | .log _ _ | .fault _ => false

/-- A micro-step of the dispatch check (R182): the edge scan or the bus probe. -/
def Micro.ofCheck : Micro → Bool
  | .scan _ | .probeAssert | .probeCmd | .probeDummy | .probeRelease _ | .probeDecide _ => true
  | .tickNow | .tickUntil _ | .tickReached _ | .drive _ _ | .float _ | .read _ | .exchange _ | .transportFatal => false

/-- The control state between the decoding of a command and its first environment primitive (R66, and the `step:` marks of R133 to
R137, R153 to R156 and R172); none for a command that has no primitive of its own. -/
def pendingPrimitive : Instr → Option Ctl
  | .tickNow => some (.exec .tickNow)
  | .tickUntil d => some (.exec (.tickUntil d))
  | .tickReached d => some (.exec (.tickReached d))
  | .tickWait d => some (.waiting d)
  | .setCs l => some (.exec (.drive .cs l))
  | .setRst (.drive l) => some (.exec (.drive .rst l))
  | .setRst .floating => some (.exec (.float .rst))
  | .setRxtx l => some (.exec (.drive .rxtx l))
  | .getLevel p => some (.exec (.read p))
  | .spiXfer b => some (.exec (.exchange b))
  | .irqDisable | .irqEnable | .hret | .fatal _ _ => none

/-- No reset comes from outside (R278: a single run contains no other reset). -/
def State.noReset (s : State) : Prop := ∀ m r, Input.reset m r ∉ s.inputs

/-- The block can take a step of its own: the parameters and the configuration are legal (R8, R26), and no reset comes (R278). -/
def State.undisturbed (s : State) : Prop :=
  paramsLegal s.params = true ∧ configLegal s.params s.cfg = true ∧ pendingReset s = none

/-- `CNT` before it wraps, after the first `k` of the moves. -/
def counterAfter (c : Nat) (moves : Nat → EnvMove) : Nat → Nat
  | 0 => c
  | k + 1 => counterAfter c moves k + (moves k).advance

/-- The sampling assumption (R67): the tick advances by less than 2^31 between two samples, the first of which comes after the
first move. -/
def Sampling (p : Params) (c : Nat) (moves : Nat → EnvMove) : Prop :=
  ∀ k,
    counterAfter c moves (k + 2) >>> p.tickShift - counterAfter c moves (k + 1) >>> p.tickShift < 2 ^ 31

/-- The progress assumption (R67): the counter advances without bound. -/
def Progress (c : Nat) (moves : Nat → EnvMove) : Prop := ∀ n, ∃ k, n ≤ counterAfter c moves k

end Sys2Proof.Machine
end

