-- ==== Sys2Proof/Certificates/Slice0/Obligations.lean ====
section
/-! DEFINITION. The statements for the provers, made from the numbered rules of spec/. A draw of the environment (an exchange's
answer, a level, an advance of the counter) is a field of the state, so a statement about every state holds for every draw. -/

open Sys2Proof Sys2Proof.Machine

/-! ## Encoding -/

/-- R92, R93, R100 and R105 together: decoding the words of a well-formed command gives it back, with every operand. -/
def Obligations.DecodeOfEncode : Prop :=
  ∀ (n : Nat) (i : Instr), i.wf n = true → decode n (encode i).1 (encode i).2 = .instr i

/-- R92 and R105, the other direction: a word that decodes is the word of the command it decodes to, and that command is
well-formed. -/
def Obligations.DecodedWordIsTheEncodedWord : Prop :=
  ∀ (n : Nat) (cmd arg : Word) (i : Instr), decode n cmd arg = .instr i → i.wf n = true ∧ encodeCmd i = cmd

/-- R100: a word decodes to a command of the row it matches, it decodes exactly when it matches one, and it matches at most one.
-/
def Obligations.DecodingFollowsTheOpcodeMap : Prop :=
  ∀ (n : Nat) (cmd arg : Word), n ≤ 12 →
    (∀ i, decode n cmd arg = .instr i → rowOf i ∈ opcodeRows ∧ matchesRow n (rowOf i) cmd) ∧
    (∀ r ∈ opcodeRows, matchesRow n r cmd → ∃ i, decode n cmd arg = .instr i ∧ rowOf i = r) ∧
    (∀ r ∈ opcodeRows, ∀ r' ∈ opcodeRows, matchesRow n r cmd → matchesRow n r' cmd → r = r')

/-- R94 and R106: whether a word faults, and with which cause, does not depend on `ARG`; and in the formats N, P and B the command
does not either. -/
def Obligations.ArgumentDoesNotDecide : Prop :=
  ∀ (n : Nat) (cmd a b : Word),
    (∀ c, decode n cmd a = .fault c ↔ decode n cmd b = .fault c) ∧
    (∀ op, op = cmd.extractLsb' 24 8 → op ≠ 0x11 → op ≠ 0x12 → op ≠ 0x13 → op ≠ 0xF0 →
      decode n cmd a = decode n cmd b)

/-- R103: issuing a reserved opcode raises ILLEGAL_OPCODE, with `FINFO` = `CMD`, and writes nothing else. -/
def Obligations.ReservedOpcodeFaults : Prop :=
  ∀ (s : State) (c : HostCmd),
    c.cmd.extractLsb' 24 8 ∉ ([0x01, 0x02, 0x03, 0x10, 0x11, 0x12, 0x13, 0x20, 0x21, 0x30, 0xF0] : List (BitVec 8)) →
    issue c s =
      .next { s with fcause := 0x01, finfo := c.cmd, ctl := .faulted, history := .fault .illegalOpcode :: s.history }

/-- R104: a command whose reserved bits are not all zero raises RESERVED_BITS, with `FINFO` = `CMD`, and writes nothing else: bits
23..0 in formats N and D, 19..2 in format P (and 1..0 in GET_LEVEL), 23..8 in format B. -/
def Obligations.ReservedBitsFault : Prop :=
  ∀ (s : State) (c : HostCmd) (op : BitVec 8), op = c.cmd.extractLsb' 24 8 →
    (op ∈ ([0x01, 0x02, 0x03, 0x10, 0x11, 0x12, 0x13] : List (BitVec 8)) ∧ c.cmd.extractLsb' 0 24 ≠ 0 ∨
      op ∈ ([0x20, 0x21] : List (BitVec 8)) ∧ c.cmd.extractLsb' 2 18 ≠ 0 ∨
      op = 0x21 ∧ c.cmd.extractLsb' 0 2 ≠ 0 ∨
      op = 0x30 ∧ c.cmd.extractLsb' 8 16 ≠ 0) →
    issue c s =
      .next { s with fcause := 0x02, finfo := c.cmd, ctl := .faulted, history := .fault .reservedBits :: s.history }

/-- R101, R102 and R105: with the reserved bits zero, a pin-set command of an illegal pin or level (floating with CS or RXTX,
level 3, a pin code that is not 0, 1 or 2) and a GET_LEVEL of a reserved pin code raise ILLEGAL_OPERAND, with `FINFO` = `CMD`. -/
def Obligations.IllegalOperandFaults : Prop :=
  ∀ (s : State) (c : HostCmd) (op : BitVec 8) (pin lvl : Nat), op = c.cmd.extractLsb' 24 8 →
    pin = (c.cmd.extractLsb' 20 4).toNat → lvl = (c.cmd.extractLsb' 0 2).toNat → c.cmd.extractLsb' 2 18 = 0 →
    (op = 0x20 ∧ (pin = 0 ∧ 2 ≤ lvl ∨ pin = 1 ∧ lvl = 3 ∨ pin = 2 ∧ 2 ≤ lvl ∨ 3 ≤ pin) ∨
      op = 0x21 ∧ lvl = 0 ∧ (pin = 3 ∨ 4 + s.params.numDio ≤ pin)) →
    issue c s =
      .next { s with fcause := 0x03, finfo := c.cmd, ctl := .faulted, history := .fault .illegalOperand :: s.history }

/-- The example words of R107 decode to the commands they are examples of (with `NUM_DIO` = 3). -/
def Obligations.ExampleWordsDecode : Prop :=
  decode 3 0x01000000 7 = .instr .irqDisable ∧ decode 3 0x02000000 7 = .instr .irqEnable ∧
  decode 3 0x03000000 7 = .instr .hret ∧ decode 3 0x10000000 7 = .instr .tickNow ∧
  decode 3 0x11000000 0x00001000 = .instr (.tickUntil 0x00001000) ∧
  decode 3 0x12000000 0xFFFFFFFF = .instr (.tickReached 0xFFFFFFFF) ∧
  decode 3 0x13000000 0x00000010 = .instr (.tickWait 0x00000010) ∧
  decode 3 0x20000000 7 = .instr (.setCs false) ∧ decode 3 0x20100002 7 = .instr (.setRst .floating) ∧
  decode 3 0x20200001 7 = .instr (.setRxtx true) ∧ decode 3 0x21600000 7 = .instr (.getLevel (.dio 2)) ∧
  decode 3 0x30000042 7 = .instr (.spiXfer 0x42) ∧ decode 3 0xF000004D 0x0000ABCD = .instr (.fatal 0x0000ABCD 77)

/-! ## The step -/

/-- R63, R65 and R66: with no reset coming, the block first sees the environment's moves (`moved`); READY with a command to issue,
the step is `exec` of the command the words decode to (the command taken off the host's stream), or the fault of the decoding.
That the environment's moves are one and come first, and that issuing a command and decoding it are one step, is the model's
choice (log entries 4 and 6, DEDUCED). -/
def Obligations.StepRunsTheDecodedCommand : Prop :=
  ∀ (s : State) (c : HostCmd) (rest : List HostCmd),
    paramsLegal s.params = true → configLegal s.params s.cfg = true → pendingReset s = none → s.ctl = .ready →
    s.host = c :: rest →
    (∀ i, decode s.params.numDio c.cmd c.arg = .instr i → step s = exec i { moved s with host := rest }) ∧
    (∀ e, decode s.params.numDio c.cmd c.arg = .fault e →
      step s = .next (raiseFault e c.cmd { moved s with host := rest }))

/-- R66 and R137: with no reset coming, EXEC takes the micro-step it names and WAITING takes a sample. That the
environment's moves come first, in one (`moved`), is the model's choice (log entry 4, DEDUCED). -/
def Obligations.StepTakesTheNextMicroStep : Prop :=
  ∀ s : State, paramsLegal s.params = true → configLegal s.params s.cfg = true → pendingReset s = none →
    (∀ m, s.ctl = .exec m → step s = .next (microStep m (moved s))) ∧
    (∀ d, s.ctl = .waiting d → step s = .next (waitSample d (moved s)))

/-- R279, R76: READY with no command, the block waits, and produces no event of its own. That the model has a step there, which is the
environment's moves alone, is its own choice (log entry 12, DEDUCED): the spec gives the block no micro-step. -/
def Obligations.ReadyBlockWaitsForTheHost : Prop :=
  ∀ s : State, paramsLegal s.params = true → configLegal s.params s.cfg = true → pendingReset s = none →
    s.ctl = .ready → s.host = [] → step s = .next (moved s) ∧ (moved s).history = s.history

/-- R67 and R68: the environment's moves advance `CNT` modulo 2^`CNT_W` and set levels, and touch no block state, no command and
no event; a level the move does not name stays as it was. -/
def Obligations.EnvironmentMovesOnlyItsOwnState : Prop :=
  (∀ s : State, moved s = { s with env := (moved s).env, inputs := s.inputs.tail, drawIndex := (moved s).drawIndex }) ∧
  (∀ (s : State) (m : EnvMove) (rest : List Input), s.inputs = .move m :: rest →
    (moved s).env.cnt = (s.env.cnt + m.advance) % 2 ^ s.params.cntW ∧
    (∀ l, m.cs = some l → (moved s).env.ext.cs = l) ∧ (m.cs = none → (moved s).env.ext.cs = s.env.ext.cs) ∧
    (∀ l, m.rst = some l → (moved s).env.ext.rst = l) ∧ (m.rst = none → (moved s).env.ext.rst = s.env.ext.rst) ∧
    (∀ l, m.rxtx = some l → (moved s).env.ext.rxtx = l) ∧ (m.rxtx = none → (moved s).env.ext.rxtx = s.env.ext.rxtx) ∧
    (∀ (i : Nat) (l : Level), i < s.env.ext.dio.length → m.dio[i]? = some l → (moved s).env.ext.dio[i]? = some l) ∧
    (∀ i : Nat, m.dio[i]? = none → (moved s).env.ext.dio[i]? = s.env.ext.dio[i]?) ∧
    (moved s).env.ext.dio.length = s.env.ext.dio.length)

/-- R64: a stopped block has no step and gives no response, unless a reset comes, and its state is never a complete end of a run
(R80). -/
def Obligations.StoppedBlockHasNoStep : Prop :=
  ∀ s : State, paramsLegal s.params = true → configLegal s.params s.cfg = true →
    (pendingReset s = none →
      (s.ctl = .faulted → step s = .fault .stoppedFaulted) ∧ (s.ctl = .halted → step s = .fault .stoppedHalted)) ∧
    (s.ctl = .faulted ∨ s.ctl = .halted → ¬s.complete)

/-- R26: a configuration is refused exactly when the mode disagrees with the wiring, or two wired logical pins share a physical
pin. (The two hypotheses on its shape are R24's: one entry for each line, and pin numbers of `PHYS_PIN_W` bits.) -/
def Obligations.IllegalConfigurationIsRefused : Prop :=
  ∀ s : State, paramsLegal s.params = true → pendingReset s = none → s.cfg.dio.length = s.params.numDio →
    (∀ e ∈ s.cfg.cs :: s.cfg.rst :: s.cfg.rxtx :: s.cfg.dio, e.unused = false → e.pin < 2 ^ s.params.physPinW) →
    (step s = .refused .illegalConfiguration ↔
      s.cfg.mode = .busProbe ∧ (∃ e ∈ s.cfg.dio, e.unused = false) ∨
      s.cfg.mode = .dedicatedLine ∧ (∀ e ∈ s.cfg.dio, e.unused = true) ∨
      ∃ (j k : Nat) (e f : PinCfg), j < k ∧ (s.cfg.cs :: s.cfg.rst :: s.cfg.rxtx :: s.cfg.dio)[j]? = some e ∧
        (s.cfg.cs :: s.cfg.rst :: s.cfg.rxtx :: s.cfg.dio)[k]? = some f ∧ e.unused = false ∧ f.unused = false ∧
        e.pin = f.pin)

/-! ## Reset -/

/-- R271 and R274: what a reset leaves, in every element of R271's table. The unspecified ones (`CNT` and `EXT` in `env`; `RKIND`
and `RDATA`; the levels of CS and RXTX; the mode and level of RST) are whatever the environment draws. -/
def Obligations.ResetLeavesTheResetValues : Prop :=
  ∀ (p : Params) (r : ResetInputs) (env : Env) (inputs : List Input) (k : Nat) (s : State),
    s = State.boot p r env inputs k →
    s.cfg = r.cfg ∧ s.nest = 0 ∧ s.edge.length = p.numDio ∧ (∀ i, edgeLevel s i = false) ∧ s.dstack = [] ∧
    s.env = env ∧ s.ctl = .ready ∧ s.fcause = 0 ∧ s.finfo = 0 ∧ s.flog = ⟨false, 0, 0⟩ ∧ stopCode s = 0 ∧
    s.rkind = r.rkind ∧ s.rdata = r.rdata ∧
    (r.cfg.cs.unused = false → s.pins.cs = some ⟨.output, r.csOut⟩) ∧
    (r.cfg.rxtx.unused = false → s.pins.rxtx = some ⟨.output, r.rxtxOut⟩) ∧
    (r.cfg.rst.unused = false → s.pins.rst = some r.rst) ∧
    (r.cfg.cs.unused = true → s.pins.cs = none) ∧ (r.cfg.rxtx.unused = true → s.pins.rxtx = none) ∧
    (r.cfg.rst.unused = true → s.pins.rst = none) ∧ s.history = []

/-- R275, R277 and R278: a reset may come in every control state; it sets the block to the reset values in one step, abandons the
command in progress and the outstanding dispatches, and leaves the counter and the external levels as the environment has them. An
illegal configuration is refused (R26, R276). That the reset comes after the environment's moves of its step, starts a new history
and a new command stream, and keeps the parameters, is the model's choice (log entry 14, DEDUCED). -/
def Obligations.ResetComesInEveryControlState : Prop :=
  ∀ (s : State) (m : EnvMove) (r : ResetInputs) (rest : List Input),
    paramsLegal s.params = true → configLegal s.params s.cfg = true → s.inputs = .reset m r :: rest →
    (configLegal s.params r.cfg = true →
      step s = .next (State.boot s.params r (moveEnv s.params m s.env) rest s.drawIndex)) ∧
    (configLegal s.params r.cfg = false → step s = .refused .illegalConfiguration)

/-- Every legal reset gives a state that meets the invariant, whatever it draws. -/
def Obligations.ResetMeetsTheInvariant : Prop :=
  ∀ (p : Params) (r : ResetInputs) (env : Env) (inputs : List Input) (k : Nat),
    paramsLegal p = true → configLegal p r.cfg = true → env.ext.dio.length = p.numDio → env.cnt < 2 ^ p.cntW →
    (State.boot p r env inputs k).Inv

/-- The state `State.reset` meets the invariant. Its parameters, configuration and draws are the model's choice (log entries 1, 2
and 3). -/
def Obligations.TheResetStateMeetsTheInvariant : Prop := State.reset.Inv

/-! ## Tick Clock -/

/-- R133: TICK_NOW is the command word 0x10000000. Decoding it changes `CTL` alone (R66); its micro-step, after whatever the
environment does in between, answers bits `TICK_SHIFT`+31..`TICK_SHIFT` of the counter, and writes no state but the response.
That the environment's moves come before a micro-step, in one (`moved`), is the model's choice (log entry 4, DEDUCED). -/
def Obligations.TickNowAnswersTheTick : Prop :=
  (∀ (n : Nat) (arg : Word), decode n 0x10000000 arg = .instr .tickNow) ∧
  (∀ s : State, exec .tickNow s = .next { s with ctl := .exec .tickNow }) ∧
  ∀ (s : State) (n : Word), s.undisturbed → n = BitVec.ofNat 32 ((moved s).env.cnt / 2 ^ s.params.tickShift) →
    step { s with ctl := .exec .tickNow } =
      .next { moved s with
        rkind := 0, rdata := n, ctl := .ready, history := .done n :: .cnt (moved s).env.cnt :: s.history }

/-- R134: TICK_UNTIL is the command word 0x11000000 with the deadline in `ARG`. Decoding it changes `CTL` alone (R66); its
micro-step answers the deadline minus the tick it samples, modulo 2^32, and writes no state but the response. That the
environment's moves come before a micro-step, in one (`moved`), is the model's choice (log entry 4, DEDUCED). -/
def Obligations.TickUntilAnswersTheDelta : Prop :=
  (∀ (n : Nat) (d : Word), decode n 0x11000000 d = .instr (.tickUntil d)) ∧
  (∀ (s : State) (d : Word), exec (.tickUntil d) s = .next { s with ctl := .exec (.tickUntil d) }) ∧
  ∀ (s : State) (d n : Word), s.undisturbed → n = BitVec.ofNat 32 ((moved s).env.cnt / 2 ^ s.params.tickShift) →
    step { s with ctl := .exec (.tickUntil d) } =
      .next { moved s with
        rkind := 0, rdata := d - n, ctl := .ready, history := .done (d - n) :: .cnt (moved s).env.cnt :: s.history }

/-- R135: TICK_REACHED is the command word 0x12000000 with the deadline in `ARG`. Decoding it changes `CTL` alone (R66); its
micro-step answers 1 when the signed delta is at most 0, else 0, and writes no state but the response. That the environment's
moves come before a micro-step, in one (`moved`), is the model's choice (log entry 4, DEDUCED). -/
def Obligations.TickReachedAnswersTheComparison : Prop :=
  (∀ (n : Nat) (d : Word), decode n 0x12000000 d = .instr (.tickReached d)) ∧
  (∀ (s : State) (d : Word), exec (.tickReached d) s = .next { s with ctl := .exec (.tickReached d) }) ∧
  ∀ (s : State) (d n b : Word), s.undisturbed →
    n = BitVec.ofNat 32 ((moved s).env.cnt / 2 ^ s.params.tickShift) →
    ((d - n).toInt ≤ 0 ∧ b = 1 ∨ 0 < (d - n).toInt ∧ b = 0) →
    step { s with ctl := .exec (.tickReached d) } =
      .next { moved s with
        rkind := 0, rdata := b, ctl := .ready, history := .done b :: .cnt (moved s).env.cnt :: s.history }

/-- R137: TICK_WAIT is the command word 0x13000000 with the deadline in `ARG`. Decoding it leaves the block WAITING with the
deadline, before any sample. The first sample is the next micro-step: it completes the wait with DONE(0) when the deadline is
reached; else the block waits on, with no response. That the environment's moves come before a micro-step, in one (`moved`), is
the model's choice (log entry 4, DEDUCED). -/
def Obligations.TickWaitTakesItsFirstSample : Prop :=
  (∀ (n : Nat) (d : Word), decode n 0x13000000 d = .instr (.tickWait d)) ∧
  (∀ (s : State) (d : Word), exec (.tickWait d) s = .next { s with ctl := .waiting d }) ∧
  ∀ (s : State) (d n : Word), s.undisturbed → n = BitVec.ofNat 32 ((moved s).env.cnt / 2 ^ s.params.tickShift) →
    ((d - n).toInt ≤ 0 →
      step { s with ctl := .waiting d } =
        .next { moved s with
          rkind := 0, rdata := 0, ctl := .ready, history := .done 0 :: .cnt (moved s).env.cnt :: s.history }) ∧
    (0 < (d - n).toInt →
      step { s with ctl := .waiting d } =
        .next { moved s with ctl := .waiting d, history := .cnt (moved s).env.cnt :: s.history })

/-- R137 and R139: a step in WAITING samples the counter after the environment's moves; it completes the wait with DONE(0) or
waits on, and runs no check: no pin is read, `EDGE` and `DSTACK` stay. That the environment's moves come before a micro-step, in
one (`moved`), is the model's choice (log entry 4, DEDUCED). -/
def Obligations.WaitingBlockOnlySamples : Prop :=
  ∀ (s : State) (d n : Word),
    paramsLegal s.params = true → configLegal s.params s.cfg = true → pendingReset s = none → s.ctl = .waiting d →
    n = BitVec.ofNat 32 ((moved s).env.cnt / 2 ^ s.params.tickShift) →
    ((d - n).toInt ≤ 0 →
      step s =
        .next { moved s with
          rkind := 0, rdata := 0, ctl := .ready, history := .done 0 :: .cnt (moved s).env.cnt :: s.history }) ∧
    (0 < (d - n).toInt → step s = .next { moved s with history := .cnt (moved s).env.cnt :: s.history })

/-- R131: the tick is bits `TICK_SHIFT`+31..`TICK_SHIFT` of the counter, and wraps silently at 2^32: whatever the counter's own
wrap, the tick after an advance is that of the unbounded sum. A counter narrower than 32 + `TICK_SHIFT` bits is outside the spec.
-/
def Obligations.TickWrapsAtTheTickWidth : Prop :=
  (∀ (p : Params) (c k : Nat), paramsLegal p = true →
    (tick p ((c + k) % 2 ^ p.cntW)).toNat = (c + k) / 2 ^ p.tickShift % 2 ^ 32) ∧
  ∀ s : State, s.params.cntW < 32 + s.params.tickShift → step s = .refused .illegalParameters

/-- R136: the difference of two tick samples, modulo 2^32, is the increase of the counter above `TICK_SHIFT`, modulo 2^32. -/
def Obligations.TickDifferenceIsTheCounterIncrease : Prop :=
  ∀ (p : Params) (c k : Nat), paramsLegal p = true →
    tick p ((c + k) % 2 ^ p.cntW) - tick p c =
      BitVec.ofNat 32 ((c + k) / 2 ^ p.tickShift - c / 2 ^ p.tickShift)

/-- R286: a deadline is reached exactly when the tick is at it or at most 2^31 past it, modulo 2^32. -/
def Obligations.ReachedIsHalfTheRange : Prop :=
  ∀ d n : Word, reached d n = true ↔ (n - d).toNat ≤ 2 ^ 31

/-- R67 and R132: for a deadline less than 2^31 ahead of the last sample, and a tick that has advanced by less than 2^31 since
(the sampling assumption), `reached` says whether the advance has covered the distance. -/
def Obligations.ReachedTellsTheAdvance : Prop :=
  ∀ (d n : Word) (k : Nat), 0 < (d - n).toInt → k < 2 ^ 31 →
    (reached d (n + BitVec.ofNat 32 k) = true ↔ (d - n).toNat ≤ k)

/-- R137 with the two assumptions of R67: every wait ends. From a state that meets the invariant and is WAITING (before its first
sample, or between two), for every deadline and every endless sequence of the environment's moves that advances the counter
without bound and by less than 2^31 ticks between two samples, some number of steps completes the wait with DONE(0). Of the block it
changes `CTL` and the response registers alone: the parameters, the configuration, `NEST`, `EDGE`, `DSTACK`, the pins, `FCAUSE`,
`FINFO` and `FLOG` are as before, and so is the host's command stream. -/
def Obligations.EveryWaitEnds : Prop :=
  ∀ (s : State) (d : Word) (moves : Nat → EnvMove),
    s.Inv → s.ctl = .waiting d → Progress s.env.cnt moves → Sampling s.params s.env.cnt moves →
    ∃ (k : Nat) (t : State),
      core.run k { s with inputs := (List.range k).map fun j => .move (moves j) } = .next t ∧
      t.ctl = .ready ∧ t.rkind = 0 ∧ t.rdata = 0 ∧ t.history.head? = some (.done 0) ∧
      t.params = s.params ∧ t.cfg = s.cfg ∧ t.nest = s.nest ∧ t.edge = s.edge ∧ t.dstack = s.dstack ∧ t.pins = s.pins ∧
      t.fcause = s.fcause ∧ t.finfo = s.finfo ∧ t.flog = s.flog ∧ t.host = s.host

/-! ## Pin Control -/

/-- R153: SET_CS is the command word 0x20000000 with the level in bits 1..0, and levels 2 and 3 are ILLEGAL_OPERAND. With CS
wired, decoding it changes `CTL` alone (R66), and its micro-step drives CS to the level and responds DONE(0); with CS unused it
is a no-op that responds DONE(0) with no drive, in the micro-step that decodes it. That the environment's moves come before a
micro-step, in one (`moved`), is the model's choice (log entry 4, DEDUCED). -/
def Obligations.SetCsDrivesChipSelect : Prop :=
  (∀ (n : Nat) (arg : Word),
    decode n 0x20000000 arg = .instr (.setCs false) ∧ decode n 0x20000001 arg = .instr (.setCs true) ∧
    decode n 0x20000002 arg = .fault .illegalOperand ∧ decode n 0x20000003 arg = .fault .illegalOperand) ∧
  ∀ (s : State) (l : Level),
    (s.cfg.cs.unused = false →
      exec (.setCs l) s = .next { s with ctl := .exec (.drive .cs l) } ∧
      (s.undisturbed → step { s with ctl := .exec (.drive .cs l) } =
        .next { moved s with
          pins := { s.pins with cs := some ⟨.output, l⟩ }, rkind := 0, rdata := 0, ctl := .ready
          history := .done 0 :: .drive .cs l :: s.history })) ∧
    (s.cfg.cs.unused = true →
      exec (.setCs l) s = .next { s with rkind := 0, rdata := 0, ctl := .ready, history := .done 0 :: s.history })

/-- R154: SET_RST is the command word 0x20100000 with the level in bits 1..0, 2 floating, and level 3 is ILLEGAL_OPERAND. With
RST wired, decoding it changes `CTL` alone (R66), and its micro-step drives RST to the level, or floats it to input mode with
`POUT` unchanged, and responds DONE(0); with RST unused it is a no-op that responds DONE(0) in the micro-step that decodes it.
That the environment's moves come before a micro-step, in one (`moved`), is the model's choice (log entry 4, DEDUCED). -/
def Obligations.SetRstDrivesOrFloatsReset : Prop :=
  (∀ (n : Nat) (arg : Word),
    decode n 0x20100000 arg = .instr (.setRst (.drive false)) ∧
    decode n 0x20100001 arg = .instr (.setRst (.drive true)) ∧ decode n 0x20100002 arg = .instr (.setRst .floating) ∧
    decode n 0x20100003 arg = .fault .illegalOperand) ∧
  ∀ s : State,
    (s.cfg.rst.unused = false →
      (∀ l, exec (.setRst (.drive l)) s = .next { s with ctl := .exec (.drive .rst l) }) ∧
      (∀ l, s.undisturbed → step { s with ctl := .exec (.drive .rst l) } =
        .next { moved s with
          pins := { s.pins with rst := some ⟨.output, l⟩ }, rkind := 0, rdata := 0, ctl := .ready
          history := .done 0 :: .drive .rst l :: s.history }) ∧
      exec (.setRst .floating) s = .next { s with ctl := .exec (.float .rst) } ∧
      (∀ q, s.undisturbed → s.pins.rst = some q → step { s with ctl := .exec (.float .rst) } =
        .next { moved s with
          pins := { s.pins with rst := some ⟨.input, q.out⟩ }, rkind := 0, rdata := 0, ctl := .ready
          history := .done 0 :: .float .rst :: s.history })) ∧
    (s.cfg.rst.unused = true →
      ∀ l, exec (.setRst l) s =
        .next { s with rkind := 0, rdata := 0, ctl := .ready, history := .done 0 :: s.history })

/-- R155: SET_RXTX is the command word 0x20200000 with the level in bits 1..0, and levels 2 and 3 are ILLEGAL_OPERAND. With RXTX
wired, decoding it changes `CTL` alone (R66), and its micro-step drives RXTX to the level and responds DONE(0); with RXTX unused
it is a no-op that responds DONE(0) with no drive, in the micro-step that decodes it. That the environment's moves come before a
micro-step, in one (`moved`), is the model's choice (log entry 4, DEDUCED). -/
def Obligations.SetRxtxDrivesTheSwitch : Prop :=
  (∀ (n : Nat) (arg : Word),
    decode n 0x20200000 arg = .instr (.setRxtx false) ∧ decode n 0x20200001 arg = .instr (.setRxtx true) ∧
    decode n 0x20200002 arg = .fault .illegalOperand ∧ decode n 0x20200003 arg = .fault .illegalOperand) ∧
  ∀ (s : State) (l : Level),
    (s.cfg.rxtx.unused = false →
      exec (.setRxtx l) s = .next { s with ctl := .exec (.drive .rxtx l) } ∧
      (s.undisturbed → step { s with ctl := .exec (.drive .rxtx l) } =
        .next { moved s with
          pins := { s.pins with rxtx := some ⟨.output, l⟩ }, rkind := 0, rdata := 0, ctl := .ready
          history := .done 0 :: .drive .rxtx l :: s.history })) ∧
    (s.cfg.rxtx.unused = true →
      exec (.setRxtx l) s = .next { s with rkind := 0, rdata := 0, ctl := .ready, history := .done 0 :: s.history })

/-- R156: GET_LEVEL is opcode 0x21 with the pin code in bits 23..20; a reserved pin code is ILLEGAL_OPERAND and a level that is
not 0 RESERVED_BITS. Decoding a GET_LEVEL of a wired input (a wired DIO line, or a wired RST, CS or RXTX in input mode) changes
`CTL` alone (R66), and its micro-step answers the external level and records the read. Of an unused or an output-driven pin
GET_LEVEL answers a level nothing constrains (`env.anyLevel`, redrawn before every step), with no read and no fault, in the
micro-step that decodes it. It writes no state but the response: `EDGE` stays. That the environment's moves come before a
micro-step, in one (`moved`), is the model's choice (log entry 4, DEDUCED). -/
def Obligations.GetLevelReadsInputs : Prop :=
  (∀ (n : Nat) (arg : Word),
    (∀ p, p.wf n = true → decode n (formatP 0x21 (pinCode p) 0) arg = .instr (.getLevel p)) ∧
    (∀ code, code = 3 ∨ 4 + n ≤ code.toNat → decode n (formatP 0x21 code 0) arg = .fault .illegalOperand) ∧
    (∀ code lvl, lvl ≠ 0 → decode n (formatP 0x21 code lvl) arg = .fault .reservedBits)) ∧
  (∀ (s : State) (p : OutPin) (q : PinState), (outCfg s.cfg p).unused = false → s.pins.get p = some q → q.mode = .input →
    exec (.getLevel (.out p)) s = .next { s with ctl := .exec (.read (.out p)) }) ∧
  (∀ (s : State) (i : Nat), i < s.params.numDio → dioWired s i = true →
    exec (.getLevel (.dio i)) s = .next { s with ctl := .exec (.read (.dio i)) }) ∧
  (∀ (s : State) (p : Pin) (l : Level) (w : Word), s.undisturbed → l = extLevel (moved s).env.ext p →
    w = (if l then 1 else 0) →
    step { s with ctl := .exec (.read p) } =
      .next { moved s with rkind := 0, rdata := w, ctl := .ready, history := .done w :: .read p l :: s.history }) ∧
  ∀ (s : State) (w : Word), w = (if s.env.anyLevel then 1 else 0) →
    (∀ p q, (outCfg s.cfg p).unused = true ∨ s.pins.get p = some q ∧ q.mode = .output →
      exec (.getLevel (.out p)) s =
        .next { s with rkind := 0, rdata := w, ctl := .ready, history := .done w :: s.history }) ∧
    (∀ i, i < s.params.numDio → dioWired s i = false →
      exec (.getLevel (.dio i)) s =
        .next { s with rkind := 0, rdata := w, ctl := .ready, history := .done w :: s.history })

/-! ## Bus Transactor -/

/-- R172 and R173: SPI_XFER is opcode 0x30 with the byte in bits 7..0. Decoding it changes `CTL` alone (R66); its micro-step
exchanges that byte, whatever the state of chip-select, and answers the byte received, zero-extended; it writes no state but the
response. When the transport reports an error there is no response, and the fatal path with cause TRANSPORT_FAULT, location
`FATAL_LOC_TRANSPORT` and line 0 follows. That the fatal path is a micro-step of its own, with `CTL` = EXEC before it, is the
model's reading of R222 (log entry 7, DEDUCED). That the environment's moves come before a micro-step, in one (`moved`), is the
model's choice (log entry 4, DEDUCED). -/
def Obligations.SpiXferExchangesOneByte : Prop :=
  (∀ (n : Nat) (b : Byte) (arg : Word), decode n (0x30#8 ++ 0#16 ++ b) arg = .instr (.spiXfer b)) ∧
  (∀ (s : State) (b : Byte), exec (.spiXfer b) s = .next { s with ctl := .exec (.exchange b) }) ∧
  (∀ (s : State) (b r : Byte), s.undisturbed → r = (moved s).env.busByte →
    ((moved s).env.busErr = false →
      step { s with ctl := .exec (.exchange b) } =
        .next { moved s with
          rkind := 0, rdata := r.zeroExtend 32, ctl := .ready
          history := .done (r.zeroExtend 32) :: .xfer b false r :: s.history }) ∧
    ((moved s).env.busErr = true →
      step { s with ctl := .exec (.exchange b) } =
        .next { moved s with ctl := .exec .transportFatal, history := .xfer b true r :: s.history })) ∧
  ∀ s : State, microStep .transportFatal s = fatalHalt .transportFault 0xFFFFFFFF 0 s

/-- R174: the fatal path of a transport error logs 0xFFFFFFFF and line 0, increments `NEST` with saturation and halts with cause
TRANSPORT_FAULT; the pins stay as they are. That this is a micro-step of its own is the model's reading of R222 (log entry
7, DEDUCED). -/
def Obligations.TransportErrorHalts : Prop :=
  ∀ s : State,
    microStep .transportFatal s =
      { s with
        flog := ⟨true, 0xFFFFFFFF, 0⟩, nest := if s.nest.toNat < 2 ^ 32 - 1 then s.nest + 1 else s.nest
        fcause := 0x10, finfo := 0xFFFFFFFF, ctl := .halted, history := .log 0xFFFFFFFF 0 :: s.history }

/-! ## Interrupt Coordinator -/

/-- R184: IRQ_DISABLE is the command word 0x01000000; it increments `NEST` and responds DONE(0); at the top of the range it raises
NEST_OVERFLOW with `NEST` in `FINFO` and `NEST` as it was. -/
def Obligations.IrqDisableIncrementsNest : Prop :=
  (∀ (n : Nat) (arg : Word), decode n 0x01000000 arg = .instr .irqDisable) ∧
  ∀ s : State,
    (s.nest.toNat < 2 ^ 32 - 1 →
      exec .irqDisable s =
        .next { s with
          nest := s.nest + 1, rkind := 0, rdata := 0, ctl := .ready, history := .done 0 :: s.history }) ∧
    (s.nest.toNat = 2 ^ 32 - 1 →
      exec .irqDisable s =
        .next { s with
          fcause := 0x07, finfo := 0xFFFFFFFF, ctl := .faulted, history := .fault .nestOverflow :: s.history })

/-- R185 and R186: IRQ_ENABLE is the command word 0x02000000; it decrements `NEST`. Above 0 afterwards it responds DONE(0) and
runs no check; at exactly 0 the check is in progress: the scan from line 0, or the probe. At `NEST` = 0 it responds DONE(0) under
Clamp, and raises NEST_UNDERFLOW under Fault, with no check. -/
def Obligations.IrqEnableDecrementsNest : Prop :=
  (∀ (n : Nat) (arg : Word), decode n 0x02000000 arg = .instr .irqEnable) ∧
  ∀ s : State,
    (2 ≤ s.nest.toNat →
      exec .irqEnable s =
        .next { s with
          nest := s.nest - 1, rkind := 0, rdata := 0, ctl := .ready, history := .done 0 :: s.history }) ∧
    (s.nest = 1 → s.cfg.mode = .dedicatedLine →
      exec .irqEnable s = .next { s with nest := 0, ctl := .exec (.scan 0) }) ∧
    (s.nest = 1 → s.cfg.mode = .busProbe →
      exec .irqEnable s = .next { s with nest := 0, ctl := .exec .probeAssert }) ∧
    (s.nest = 0 → s.params.underflowPolicy = .clamp →
      exec .irqEnable s =
        .next { s with rkind := 0, rdata := 0, ctl := .ready, history := .done 0 :: s.history }) ∧
    (s.nest = 0 → s.params.underflowPolicy = .fault →
      exec .irqEnable s =
        .next { s with
          fcause := 0x06, finfo := 0, ctl := .faulted, history := .fault .nestUnderflow :: s.history })

/-- R196 and R197, in the order of R235: HRET is the command word 0x03000000; with no dispatch outstanding it raises
HRET_NO_DISPATCH, whatever `NEST`; with `NEST` not 0 it raises HRET_UNBALANCED with `NEST` in `FINFO`; else it pops the frame and
resumes the scan at its line (`CTL` = EXEC; the scan's own micro-steps follow, R190), or responds DONE(0) for a probe. -/
def Obligations.HretReturnsFromTheHandler : Prop :=
  (∀ (n : Nat) (arg : Word), decode n 0x03000000 arg = .instr .hret) ∧
  ∀ s : State,
    (s.dstack = [] →
      exec .hret s =
        .next { s with
          fcause := 0x04, finfo := 0, ctl := .faulted, history := .fault .hretNoDispatch :: s.history }) ∧
    (s.dstack ≠ [] → s.nest ≠ 0 →
      exec .hret s =
        .next { s with
          fcause := 0x05, finfo := s.nest, ctl := .faulted, history := .fault .hretUnbalanced :: s.history }) ∧
    (∀ r rest, s.dstack = .line r :: rest → s.nest = 0 →
      exec .hret s = .next { s with dstack := rest, ctl := .exec (.scan r) }) ∧
    (∀ rest, s.dstack = .probe :: rest → s.nest = 0 →
      exec .hret s =
        .next { s with
          dstack := rest, rkind := 0, rdata := 0, ctl := .ready, history := .done 0 :: s.history })

/-- R190 and R191: a micro-step of the scan at `r` samples the first wired line `i` from `r` on. No change: the scan goes on after
it. High to low: `EDGE[i]` is updated silently. Low to high: `EDGE[i]` is updated, the frame that resumes after line `i` is pushed
and the response is DISPATCH(i); with the stack full, DISPATCH_DEPTH is raised and the update of `EDGE[i]` stays. With no wired
line left the scan responds DONE(0) and reads nothing. -/
def Obligations.ScanSamplesTheNextWiredLine : Prop :=
  (∀ (s : State) (r : Nat), (∀ j, r ≤ j → j < s.params.numDio → dioWired s j = false) →
    microStep (.scan r) s =
      { s with rkind := 0, rdata := 0, ctl := .ready, history := .done 0 :: s.history }) ∧
  ∀ (s : State) (r i : Nat) (l : Level),
    r ≤ i → i < s.params.numDio → dioWired s i = true → (∀ j, r ≤ j → j < i → dioWired s j = false) →
    l = s.env.ext.dio.getD i false →
    (l = s.edge.getD i false →
      microStep (.scan r) s =
        { s with ctl := .exec (.scan (i + 1)), history := .read (.dio i) l :: s.history }) ∧
    (l = false → s.edge.getD i false = true →
      microStep (.scan r) s =
        { s with
          edge := s.edge.set i false, ctl := .exec (.scan (i + 1)), history := .read (.dio i) false :: s.history }) ∧
    (l = true → s.edge.getD i false = false → s.dstack.length ≠ s.params.dispatchDepthMax →
      microStep (.scan r) s =
        { s with
          edge := s.edge.set i true, dstack := .line (i + 1) :: s.dstack, rkind := 1, rdata := BitVec.ofNat 32 i
          ctl := .ready, history := .dispatch i :: .read (.dio i) true :: s.history }) ∧
    (l = true → s.edge.getD i false = false → s.dstack.length = s.params.dispatchDepthMax →
      microStep (.scan r) s =
        { s with
          edge := s.edge.set i true, fcause := 0x08, finfo := BitVec.ofNat 32 i, ctl := .faulted
          history := .fault .dispatchDepth :: .read (.dio i) true :: s.history })

/-- R192: dispatch entry pushes the frame, responds DISPATCH with the line and returns to READY; with the stack full it raises
DISPATCH_DEPTH with the line in `FINFO`, and pushes nothing. -/
def Obligations.DispatchPushesAFrameAndResponds : Prop :=
  ∀ (f : Frame) (line : Nat) (s : State),
    (s.dstack.length ≠ s.params.dispatchDepthMax →
      dispatch f line s =
        { s with
          dstack := f :: s.dstack, rkind := 1, rdata := BitVec.ofNat 32 line, ctl := .ready
          history := .dispatch line :: s.history }) ∧
    (s.dstack.length = s.params.dispatchDepthMax →
      dispatch f line s =
        { s with
          fcause := 0x08, finfo := BitVec.ofNat 32 line, ctl := .faulted, history := .fault .dispatchDepth :: s.history })

/-- R193 and R194: the five micro-steps of the probe. Chip-select is driven to `CS_ACTIVE` and, after the two exchanges, to the
other level, and neither when CS is unused; an exchange that fails leads to the fatal path (`transportFatal`); the second byte
received is the status; a non-zero status pushes a Probe frame and responds DISPATCH(0), a zero status responds DONE(0). `EDGE` is
never touched. That the fatal path is a micro-step of its own is the model's reading of R222 (log entry 7, DEDUCED). -/
def Obligations.ProbeReadsTheStatusOnce : Prop :=
  ∀ (s : State) (st : Byte),
    microStep .transportFatal s = fatalHalt .transportFault 0xFFFFFFFF 0 s ∧
    (s.cfg.cs.unused = false →
      microStep .probeAssert s =
        { s with
          pins := { s.pins with cs := some ⟨.output, s.params.csActive⟩ }, ctl := .exec .probeCmd
          history := .drive .cs s.params.csActive :: s.history } ∧
      microStep (.probeRelease st) s =
        { s with
          pins := { s.pins with cs := some ⟨.output, !s.params.csActive⟩ }, ctl := .exec (.probeDecide st)
          history := .drive .cs (!s.params.csActive) :: s.history }) ∧
    (s.cfg.cs.unused = true →
      microStep .probeAssert s = { s with ctl := .exec .probeCmd } ∧
      microStep (.probeRelease st) s = { s with ctl := .exec (.probeDecide st) }) ∧
    microStep .probeCmd s =
      { s with
        ctl := .exec (if s.env.busErr then .transportFatal else .probeDummy)
        history := .xfer s.params.probeCmd s.env.busErr s.env.busByte :: s.history } ∧
    microStep .probeDummy s =
      { s with
        ctl := .exec (if s.env.busErr then .transportFatal else .probeRelease s.env.busByte)
        history := .xfer s.params.probeDummy s.env.busErr s.env.busByte :: s.history } ∧
    (st = 0 →
      microStep (.probeDecide st) s =
        { s with rkind := 0, rdata := 0, ctl := .ready, history := .done 0 :: s.history }) ∧
    (st ≠ 0 → s.dstack.length ≠ s.params.dispatchDepthMax →
      microStep (.probeDecide st) s =
        { s with
          dstack := .probe :: s.dstack, rkind := 1, rdata := 0, ctl := .ready
          history := .dispatch 0 :: s.history }) ∧
    (st ≠ 0 → s.dstack.length = s.params.dispatchDepthMax →
      microStep (.probeDecide st) s =
        { s with
          fcause := 0x08, finfo := 0, ctl := .faulted, history := .fault .dispatchDepth :: s.history })

/-! ## Fatal report -/

/-- R221 and R222: FATAL is opcode 0xF0, with the line number in bits 23..0 and the location in `ARG`. The fatal path, of every
cause, logs the location and line, increments `NEST` with saturation, and halts with its cause and the location in `FINFO`;
`DSTACK`, the pins and `EDGE` stay, and there is no response. FATAL runs it with cause REPORT_FATAL. -/
def Obligations.FatalLogsAndHalts : Prop :=
  (∀ (n : Nat) (loc : Word) (line : BitVec 24), decode n (0xF0#8 ++ line) loc = .instr (.fatal loc line)) ∧
  (∀ (s : State) (c : Cause) (loc : Word) (line : BitVec 24),
    fatalHalt c loc line s =
      { s with
        flog := ⟨true, loc, line⟩, nest := if s.nest.toNat < 2 ^ 32 - 1 then s.nest + 1 else s.nest
        fcause := causeCode c, finfo := loc, ctl := .halted, history := .log loc line :: s.history }) ∧
  ∀ (s : State) (loc : Word) (line : BitVec 24),
    exec (.fatal loc line) s =
      .next { s with
        flog := ⟨true, loc, line⟩, nest := if s.nest.toNat < 2 ^ 32 - 1 then s.nest + 1 else s.nest
        fcause := 0x11, finfo := loc, ctl := .halted, history := .log loc line :: s.history }

/-! ## Raising a fault -/

/-- R233 with the codes of R232: raising a fault writes `FCAUSE`, `FINFO` and `CTL`, and nothing else (the event is R79's record).
-/
def Obligations.RaisingAFaultWritesThreeRegisters : Prop :=
  (∀ (c : Cause) (info : Word) (s : State),
    raiseFault c info s =
      { s with fcause := causeCode c, finfo := info, ctl := .faulted, history := .fault c :: s.history }) ∧
  causeCode .illegalOpcode = 0x01 ∧ causeCode .reservedBits = 0x02 ∧ causeCode .illegalOperand = 0x03 ∧
  causeCode .hretNoDispatch = 0x04 ∧ causeCode .hretUnbalanced = 0x05 ∧ causeCode .nestUnderflow = 0x06 ∧
  causeCode .nestOverflow = 0x07 ∧ causeCode .dispatchDepth = 0x08 ∧ causeCode .transportFault = 0x10 ∧
  causeCode .reportFatal = 0x11

/-! ## Whole-machine rules -/

/-- The machine's invariant (`State.Inv`: R26, R29 to R37, R188) is kept by every step, a reset among them. -/
def Obligations.EveryStepKeepsTheInvariant : Prop := ∀ s t : State, s.Inv → step s = .next t → t.Inv

/-- R188: no step from a state with `NEST` > 0 produces a DISPATCH response. -/
def Obligations.NoDispatchWhileDeferred : Prop :=
  ∀ s t : State, s.Inv → pendingReset s = none → s.nest ≠ 0 → step s = .next t →
    ∃ new, t.history = new ++ s.history ∧ ∀ line, Event.dispatch line ∉ new

/-- R203: a DISPATCH carries the index of a wired line in DedicatedLine mode and 0 in BusProbe mode, and its data is the
response's. -/
def Obligations.DispatchCarriesItsLine : Prop :=
  ∀ (s t : State) (new : List Event) (line : Nat), s.Inv → pendingReset s = none → step s = .next t →
    t.history = new ++ s.history → Event.dispatch line ∈ new →
    t.rkind = 1 ∧ t.rdata = BitVec.ofNat 32 line ∧ t.ctl = .ready ∧
    (s.cfg.mode = .dedicatedLine ∧ line < s.params.numDio ∧ dioWired s line = true ∨
      s.cfg.mode = .busProbe ∧ line = 0)

/-- R200. A low-to-high change of `EDGE[i]` is made by a scan micro-step alone, of a line that is pending at the read (R38), and
that micro-step dispatches line i exactly once (or, with the stack full, raises DISPATCH_DEPTH for line i, R192). And in
DedicatedLine mode, from a state in which a check has seen line i high, no run dispatches line i until a micro-step of a scan has
seen it low. -/
def Obligations.ExactlyOncePerObservedEdge : Prop :=
  (∀ (s t : State) (i : Nat), s.Inv → pendingReset s = none → step s = .next t →
    edgeLevel s i = false → edgeLevel t i = true →
    (∃ r, s.ctl = .exec (.scan r)) ∧ pending (moved s) i = true ∧
    (t.history = .dispatch i :: .read (.dio i) true :: s.history ∧ t.dstack = .line (i + 1) :: s.dstack ∧
        t.ctl = .ready ∧ s.dstack.length < s.params.dispatchDepthMax ∨
      t.history = .fault .dispatchDepth :: .read (.dio i) true :: s.history ∧ t.dstack = s.dstack ∧
        t.ctl = .faulted ∧ t.finfo = BitVec.ofNat 32 i ∧ s.dstack.length = s.params.dispatchDepthMax)) ∧
  ∀ (s t : State) (k i : Nat) (new : List Event),
    s.Inv → s.noReset → s.cfg.mode = .dedicatedLine → edgeLevel s i = true →
    core.run k s = .next t → t.history = new ++ s.history → Event.dispatch i ∈ new →
    ∃ (j : Nat) (u v : State), j < k ∧ core.run j s = .next u ∧ step u = .next v ∧
      (∃ r, u.ctl = .exec (.scan r)) ∧ edgeLevel u i = true ∧ edgeLevel v i = false ∧
      v.history = .read (.dio i) false :: u.history

/-- R29: `EDGE` is mutated by the scan alone, one line at a time, and to the level that line has at the read. -/
def Obligations.OnlyTheScanWritesEdge : Prop :=
  ∀ s t : State, pendingReset s = none → step s = .next t → t.edge ≠ s.edge →
    ∃ r i, s.ctl = .exec (.scan r) ∧ r ≤ i ∧ i < s.params.numDio ∧ dioWired s i = true ∧
      t.edge = s.edge.set i ((moved s).env.ext.dio.getD i false)

/-- R27: the only writers of `NEST` are IRQ_DISABLE (one more), IRQ_ENABLE (one less, from above 0) and the fatal path (one more,
and the block is HALTED). -/
def Obligations.OnlyTheseWriteNest : Prop :=
  ∀ s t : State, pendingReset s = none → step s = .next t → t.nest ≠ s.nest →
    (∃ c rest, s.ctl = .ready ∧ s.host = c :: rest ∧
        (decode s.params.numDio c.cmd c.arg = .instr .irqDisable ∧ t.nest = s.nest + 1 ∨
          decode s.params.numDio c.cmd c.arg = .instr .irqEnable ∧ s.nest ≠ 0 ∧ t.nest = s.nest - 1)) ∨
    t.ctl = .halted ∧ t.nest = s.nest + 1

/-- R182: a check starts only inside an IRQ_ENABLE whose decrement brings `NEST` to 0, at line 0 or with the probe's first
micro-step, as the mode says; a scan resumes only in an HRET, at the line of the frame it pops. -/
def Obligations.ChecksStartOnlyAtTheFinalEnable : Prop :=
  ∀ (s t : State) (m : Micro), pendingReset s = none → step s = .next t →
    (∀ m', s.ctl = .exec m' → m'.ofCheck = false) → t.ctl = .exec m → m.ofCheck = true →
    ∃ c rest, s.ctl = .ready ∧ s.host = c :: rest ∧
      (decode s.params.numDio c.cmd c.arg = .instr .irqEnable ∧ s.nest = 1 ∧ t.nest = 0 ∧
          (s.cfg.mode = .dedicatedLine ∧ m = .scan 0 ∨ s.cfg.mode = .busProbe ∧ m = .probeAssert) ∨
        decode s.params.numDio c.cmd c.arg = .instr .hret ∧ s.nest = 0 ∧
          ∃ r, s.dstack = .line r :: t.dstack ∧ m = .scan r)

/-- R187: N IRQ_DISABLE and then N IRQ_ENABLE from `NEST` = 0 run the check exactly once, in the N-th IRQ_ENABLE: after every
earlier one of the 2N commands the block is READY with no line read and no byte exchanged, and after the last the check is in
progress with `NEST` = 0. -/
def Obligations.OneCheckPerOutermostSection : Prop :=
  ∀ (s : State) (n : Nat) (ds es rest : List HostCmd),
    s.Inv → s.noReset → s.ctl = .ready → s.nest = 0 → 1 ≤ n → n < 2 ^ 32 →
    ds.length = n → es.length = n → (∀ c ∈ ds, c.cmd = 0x01000000) → (∀ c ∈ es, c.cmd = 0x02000000) →
    s.host = ds ++ es ++ rest →
    (∀ k, k < 2 * n → ∃ t : State, core.run k s = .next t ∧ t.ctl = .ready ∧
      t.history = List.replicate k (.done 0) ++ s.history) ∧
    ∃ t : State, core.run (2 * n) s = .next t ∧ t.nest = 0 ∧ t.host = rest ∧ t.edge = s.edge ∧ t.dstack = s.dstack ∧
      t.pins = s.pins ∧
      (s.cfg.mode = .dedicatedLine ∧ t.ctl = .exec (.scan 0) ∨ s.cfg.mode = .busProbe ∧ t.ctl = .exec .probeAssert)

/-- R295: a command in progress completes, dispatches, faults or halts within a bounded number of its own micro-steps after
decoding: a scan within `NUM_DIO` + 1, a probe within 5, every other command within 2. A command with a single
primitive takes 1 (R66); the bound 1 for the fatal path after a failed exchange counts it as a micro-step of its own (log entry 7,
DEDUCED). -/
def Obligations.CommandsAreBounded : Prop :=
  ∀ (s : State) (m : Micro), s.Inv → s.noReset → s.ctl = .exec m →
    ∃ (k bound : Nat) (t : State),
      bound = (match m with
        | .scan _ => s.params.numDio + 1
        | .probeAssert | .probeCmd | .probeDummy | .probeRelease _ | .probeDecide _ => 5
        | .exchange _ => 2
        | .tickNow | .tickUntil _ | .tickReached _ | .drive _ _ | .float _ | .read _ | .transportFatal => 1) ∧
      k ≤ bound ∧ core.run k s = .next t ∧ (t.ctl = .ready ∨ t.ctl = .faulted ∨ t.ctl = .halted)

/-- R24, R25, R30, R34 and R276: no step but a reset changes the configuration registers (and none the parameters), and the block
never writes `CNT` or `EXT`: they are as the environment's moves leave them. -/
def Obligations.ConfigurationAndEnvironmentAreReadOnly : Prop :=
  ∀ s t : State, step s = .next t →
    t.params = s.params ∧ t.env = (moved s).env ∧
    (pendingReset s = none → t.cfg = s.cfg) ∧ (∀ r, pendingReset s = some r → t.cfg = r.cfg)

/-- R36 and R37: the stop registers are written once, when the block enters FAULTED or HALTED: a step into any other control state
leaves them, and a stopped block has no step (`StoppedBlockHasNoStep`); in HALTED the log is made, in FAULTED it is not. -/
def Obligations.StopRegistersAreWrittenOnce : Prop :=
  ∀ s t : State, s.Inv → pendingReset s = none → step s = .next t →
    ¬s.stopped ∧
    (¬t.stopped → t.fcause = s.fcause ∧ t.finfo = s.finfo ∧ t.flog = s.flog) ∧
    (t.ctl = .faulted → t.flog = s.flog ∧ t.nest = s.nest ∧ t.dstack = s.dstack ∧ t.pins = s.pins ∧
      ∃ c, t.fcause = causeCode c ∧ c ≠ .transportFault ∧ c ≠ .reportFatal ∧ t.history.head? = some (.fault c)) ∧
    (t.ctl = .halted → t.flog.v = true ∧ t.finfo = t.flog.loc ∧
      (t.fcause = 0x10 ∧ t.flog.loc = 0xFFFFFFFF ∧ t.flog.line = 0 ∨ t.fcause = 0x11))

/-- R63 and R65: while the block is not READY the host's commands wait: a step takes no command off the stream; and READY, it
takes exactly the first. -/
def Obligations.HostIsBlockedWhileBusy : Prop :=
  ∀ s t : State, pendingReset s = none → step s = .next t →
    (s.ctl ≠ .ready → t.host = s.host) ∧ (s.ctl = .ready → t.host = s.host.tail)

/-- R31, R238 and R239: `DSTACK` grows by one frame exactly in a step that responds DISPATCH, and shrinks by one exactly in a step
that issues an HRET that returns (a dispatch outstanding and `NEST` = 0); no other step changes it. -/
def Obligations.DispatchStackFollowsDispatchAndReturn : Prop :=
  ∀ (s t : State) (new : List Event), pendingReset s = none → step s = .next t → t.history = new ++ s.history →
    ((∃ f, t.dstack = f :: s.dstack) ↔ ∃ line, Event.dispatch line ∈ new) ∧
    ((∃ f, s.dstack = f :: t.dstack) ↔
      s.nest = 0 ∧ s.dstack ≠ [] ∧ s.ctl = .ready ∧
        ∃ c rest, s.host = c :: rest ∧ decode s.params.numDio c.cmd c.arg = .instr .hret) ∧
    ((∃ f, t.dstack = f :: s.dstack) ∨ (∃ f, s.dstack = f :: t.dstack) ∨ t.dstack = s.dstack)

/-- R274 and R33: CS and RXTX, when wired, are outputs in every step's result, and an unused pin has no state. -/
def Obligations.ChipSelectStaysAnOutput : Prop :=
  ∀ s t : State, s.Inv → step s = .next t →
    (t.cfg.cs.unused = false → ∃ q, t.pins.cs = some q ∧ q.mode = .output) ∧
    (t.cfg.rxtx.unused = false → ∃ q, t.pins.rxtx = some q ∧ q.mode = .output) ∧
    (t.cfg.cs.unused = true → t.pins.cs = none) ∧ (t.cfg.rst.unused = true → t.pins.rst = none) ∧
    (t.cfg.rxtx.unused = true → t.pins.rxtx = none)

/-- R32: the pins are written by the micro-steps of SET_CS, SET_RST and SET_RXTX, each its own pin, and by the probe's two
chip-select drives; an unused pin by nothing. (`DecodingIsAMicroStepOfItsOwn` says which command leads to which micro-step.) -/
def Obligations.OnlyTheseWritePins : Prop :=
  ∀ s t : State, s.Inv → pendingReset s = none → step s = .next t → t.pins ≠ s.pins →
    (∃ p l, s.ctl = .exec (.drive p l) ∧ (outCfg s.cfg p).unused = false ∧
      t.pins = s.pins.set p (some ⟨.output, l⟩)) ∨
    (∃ q, s.ctl = .exec (.float .rst) ∧ s.cfg.rst.unused = false ∧ s.pins.rst = some q ∧
      t.pins = { s.pins with rst := some ⟨.input, q.out⟩ }) ∨
    s.cfg.cs.unused = false ∧
      (s.ctl = .exec .probeAssert ∧ t.pins = { s.pins with cs := some ⟨.output, s.params.csActive⟩ } ∨
        (∃ st, s.ctl = .exec (.probeRelease st)) ∧
          t.pins = { s.pins with cs := some ⟨.output, !s.params.csActive⟩ })

/-- R24 and R152: an unused pin never generates a hardware operation: every drive, float and read a step records is of a wired
pin. -/
def Obligations.UnusedPinsMakeNoEvent : Prop :=
  ∀ (s t : State) (new : List Event), s.Inv → pendingReset s = none → step s = .next t → t.history = new ++ s.history →
    (∀ p l, Event.drive p l ∈ new ∨ Event.float p ∈ new ∨ Event.read (.out p) l ∈ new →
      (outCfg s.cfg p).unused = false) ∧
    (∀ i l, Event.read (.dio i) l ∈ new → dioWired s i = true)

/-- R91 and R95: a step that leaves the block READY, other than waiting for a command, gives exactly one response, as its last
event, and `RKIND` and `RDATA` are that response's; every other step gives none and leaves them. -/
def Obligations.EveryCommandIsAnsweredOnce : Prop :=
  ∀ (s t : State) (new : List Event), pendingReset s = none → step s = .next t → t.history = new ++ s.history →
    (t.ctl = .ready →
      s.ctl = .ready ∧ s.host = [] ∧ new = [] ∨
      ∃ e rest, new = e :: rest ∧ (∀ x ∈ rest, x.isResponse = false) ∧
        (e = .done t.rdata ∧ t.rkind = 0 ∨
          ∃ line, e = .dispatch line ∧ t.rkind = 1 ∧ t.rdata = BitVec.ofNat 32 line)) ∧
    (t.ctl ≠ .ready → (∀ x ∈ new, x.isResponse = false) ∧ t.rkind = s.rkind ∧ t.rdata = s.rdata)

/-- R66 and R105: one micro-step does at most one environment primitive, and the one that decodes a command does none. A command
with a primitive of its own is first decoded, which changes nothing but `CTL` (with the command taken off the host's stream); its
primitive, or for TICK_WAIT its first sample, is a later micro-step, and nothing else leads to it. -/
def Obligations.DecodingIsAMicroStepOfItsOwn : Prop :=
  ∀ (s t : State) (new : List Event), pendingReset s = none → step s = .next t → t.history = new ++ s.history →
    (new.filter Event.isPrimitive).length ≤ 1 ∧
    (s.ctl = .ready → new.filter Event.isPrimitive = []) ∧
    ∀ k, t.ctl = k → (∃ d, k = .waiting d) ∨ (∃ m, k = .exec m ∧ m.ofCheck = false ∧ m ≠ .transportFatal) →
      (∃ d, k = .waiting d ∧ s.ctl = .waiting d) ∨
      ∃ c rest i, s.ctl = .ready ∧ s.host = c :: rest ∧ decode s.params.numDio c.cmd c.arg = .instr i ∧
        pendingPrimitive i = some k ∧ t = { moved s with host := rest, ctl := k }
end

