-- ==== Sys2Proof/Laws/PerInstr.lean ====
section
/-! SUPPORT. Facts of every command as syntax, one lemma a constructor. Family TableRow: an encoded command word is of its own
row of the opcode map (30_encoding.md R100), mask and match. -/

namespace Sys2Proof.Laws.TableRow

/-- The command word of `i` has the fixed bits of `i`'s row, and the row is one of the thirteen. -/
def Statement (i : Instr) : Prop :=
  ∀ n, i.wf n = true → encodeCmd i &&& (rowOf i).mask = (rowOf i).pattern ∧ rowOf i ∈ opcodeRows

theorem irqDisable : Statement .irqDisable := fun _ _ => by decide

theorem irqEnable : Statement .irqEnable := fun _ _ => by decide

theorem hret : Statement .hret := fun _ _ => by decide

theorem tickNow : Statement .tickNow := fun _ _ => by decide

theorem tickUntil (deadline : Word) : Statement (.tickUntil deadline) := fun _ _ =>
  (by decide : encodeCmd (.tickUntil 0) &&& (rowOf (.tickUntil 0)).mask = (rowOf (.tickUntil 0)).pattern ∧
    rowOf (.tickUntil 0) ∈ opcodeRows)

theorem tickReached (deadline : Word) : Statement (.tickReached deadline) := fun _ _ =>
  (by decide : encodeCmd (.tickReached 0) &&& (rowOf (.tickReached 0)).mask = (rowOf (.tickReached 0)).pattern ∧
    rowOf (.tickReached 0) ∈ opcodeRows)

theorem tickWait (deadline : Word) : Statement (.tickWait deadline) := fun _ _ =>
  (by decide : encodeCmd (.tickWait 0) &&& (rowOf (.tickWait 0)).mask = (rowOf (.tickWait 0)).pattern ∧
    rowOf (.tickWait 0) ∈ opcodeRows)

theorem setCs (l : Level) : Statement (.setCs l) := fun _ _ => by cases l <;> decide

theorem setRst (l : RstLevel) : Statement (.setRst l) := fun _ _ => by
  cases l with
  | drive b => cases b <;> decide
  | floating => decide

theorem setRxtx (l : Level) : Statement (.setRxtx l) := fun _ _ => by cases l <;> decide

theorem getLevel (p : Pin) : Statement (.getLevel p) := fun n h => by
  cases p with
  | out q => cases q <;> decide
  | dio i =>
    have hi : i < 12 := by
      simp only [Instr.wf, Pin.wf, Bool.and_eq_true, decide_eq_true_eq] at h
      exact h.2
    have all : ∀ j : Fin 12,
        encodeCmd (.getLevel (.dio j)) &&& (rowOf (.getLevel (.dio j))).mask = 0x21000000 := by decide
    exact ⟨all ⟨i, hi⟩, (by decide : rowOf (.getLevel (.out .cs)) ∈ opcodeRows)⟩

/-- Masking off the low bits of a word leaves its high part, shifted back in place. -/
theorem append_and_high {h l : Nat} (x : BitVec h) (y : BitVec l) :
    (x ++ y) &&& (BitVec.allOnes h ++ 0#l) = x ++ 0#l := by
  ext k hk
  simp only [BitVec.getElem_and, BitVec.getElem_append]
  split <;> simp

theorem spiXfer (b : Byte) : Statement (.spiXfer b) := fun _ _ =>
  ⟨append_and_high (0x30#8 ++ 0#16) b, (by decide : rowOf (.spiXfer 0) ∈ opcodeRows)⟩

theorem fatal (loc : Word) (line : BitVec 24) : Statement (.fatal loc line) := fun _ _ =>
  ⟨append_and_high 0xF0#8 line, (by decide : rowOf (.fatal 0 0) ∈ opcodeRows)⟩

end Sys2Proof.Laws.TableRow
end

