-- ==== Sys2Proof/Laws/Decode.lean ====
section
/-! SUPPORT. Small lemmas on the decoder and the encoder: what each check that passed says, how a command word is put together from
its fields (30_encoding.md R92), and what a row of the opcode map says of the fields. -/

namespace Sys2Proof

/-! ## A command word and its fields (R92) -/

/-- Formats N, D and F: the opcode and the low 24 bits. -/
theorem word_of_op_low (c : Word) : c = c.extractLsb' 24 8 ++ c.extractLsb' 0 24 := by
  apply BitVec.eq_of_toNat_eq
  have := c.isLt
  show c.toNat = (c.extractLsb' 24 8 ++ c.extractLsb' 0 24 : BitVec (8 + 24)).toNat
  rw [BitVec.toNat_append, ← Nat.shiftLeft_add_eq_or_of_lt (BitVec.isLt _)]
  simp only [BitVec.extractLsb'_toNat, Nat.shiftRight_eq_div_pow, Nat.shiftLeft_eq]
  omega

/-- Format B: the opcode, the reserved bits and the byte. -/
theorem word_of_formatB (c : Word) :
    c = c.extractLsb' 24 8 ++ c.extractLsb' 8 16 ++ c.extractLsb' 0 8 := by
  apply BitVec.eq_of_toNat_eq
  have := c.isLt
  show c.toNat =
    (c.extractLsb' 24 8 ++ c.extractLsb' 8 16 ++ c.extractLsb' 0 8 : BitVec (8 + 16 + 8)).toNat
  rw [BitVec.toNat_append, BitVec.toNat_append, ← Nat.shiftLeft_add_eq_or_of_lt (BitVec.isLt _),
    ← Nat.shiftLeft_add_eq_or_of_lt (BitVec.isLt _)]
  simp only [BitVec.extractLsb'_toNat, Nat.shiftRight_eq_div_pow, Nat.shiftLeft_eq]
  omega

/-- Format P: the opcode, the pin code, the reserved bits and the level code. -/
theorem word_of_formatP (c : Word) :
    c = c.extractLsb' 24 8 ++ c.extractLsb' 20 4 ++ c.extractLsb' 2 18 ++ c.extractLsb' 0 2 := by
  apply BitVec.eq_of_toNat_eq
  have := c.isLt
  show c.toNat =
    (c.extractLsb' 24 8 ++ c.extractLsb' 20 4 ++ c.extractLsb' 2 18 ++ c.extractLsb' 0 2 :
      BitVec (8 + 4 + 18 + 2)).toNat
  rw [BitVec.toNat_append, BitVec.toNat_append, BitVec.toNat_append,
    ← Nat.shiftLeft_add_eq_or_of_lt (BitVec.isLt _), ← Nat.shiftLeft_add_eq_or_of_lt (BitVec.isLt _),
    ← Nat.shiftLeft_add_eq_or_of_lt (BitVec.isLt _)]
  simp only [BitVec.extractLsb'_toNat, Nat.shiftRight_eq_div_pow, Nat.shiftLeft_eq]
  omega

theorem op_of_append (x : BitVec 8) (y : BitVec 24) : (x ++ y).extractLsb' 24 8 = x := by
  rw [BitVec.extractLsb'_append_eq_of_le (by omega)]; simp

theorem low_of_append (x : BitVec 8) (y : BitVec 24) : (x ++ y).extractLsb' 0 24 = y := by
  rw [BitVec.extractLsb'_append_eq_of_add_le (by omega)]; simp

/-- A field of a word that matches a row, masked as the row masks it. -/
theorem field_of_row {cmd mask pattern : Word} (h : cmd &&& mask = pattern) (start len : Nat) :
    cmd.extractLsb' start len &&& mask.extractLsb' start len = pattern.extractLsb' start len := by
  rw [← BitVec.extractLsb'_and, h]

/-- A field that the row fixes whole. -/
theorem fixed_field_of_row {cmd mask pattern : Word} (h : cmd &&& mask = pattern) (start len : Nat)
    (hm : mask.extractLsb' start len = BitVec.allOnes len) :
    cmd.extractLsb' start len = pattern.extractLsb' start len := by
  have := field_of_row h start len
  rwa [hm, BitVec.and_allOnes] at this

/-! ## What a check that passed says -/

theorem ite_some_inv {α : Type} {c : Prop} [Decidable c] {a o : α} {rest : Option α}
    (h : (if c then some a else rest) = some o) : (c ∧ o = a) ∨ rest = some o := by
  split at h
  · exact .inl ⟨‹_›, (Option.some.inj h).symm⟩
  · exact .inr h

theorem opcodeOf_inv {op : BitVec 8} {o : Opcode} (h : opcodeOf op = some o) :
    (op = 0x01 ∧ o = .irqDisable) ∨ (op = 0x02 ∧ o = .irqEnable) ∨ (op = 0x03 ∧ o = .hret) ∨
    (op = 0x10 ∧ o = .tickNow) ∨ (op = 0x11 ∧ o = .tickUntil) ∨ (op = 0x12 ∧ o = .tickReached) ∨
    (op = 0x13 ∧ o = .tickWait) ∨ (op = 0x20 ∧ o = .pinSet) ∨ (op = 0x21 ∧ o = .getLevel) ∨
    (op = 0x30 ∧ o = .spiXfer) ∨ (op = 0xF0 ∧ o = .fatal) := by
  unfold opcodeOf at h
  refine (ite_some_inv h).imp_right fun h => ?_
  refine (ite_some_inv h).imp_right fun h => ?_
  refine (ite_some_inv h).imp_right fun h => ?_
  refine (ite_some_inv h).imp_right fun h => ?_
  refine (ite_some_inv h).imp_right fun h => ?_
  refine (ite_some_inv h).imp_right fun h => ?_
  refine (ite_some_inv h).imp_right fun h => ?_
  refine (ite_some_inv h).imp_right fun h => ?_
  refine (ite_some_inv h).imp_right fun h => ?_
  refine (ite_some_inv h).imp_right fun h => ?_
  exact (ite_some_inv h).resolve_right (by simp)

theorem requireZero_instr {w : Nat} {x : BitVec w} {d : Decoded} {i : Instr}
    (h : requireZero x d = .instr i) : x = 0 ∧ d = .instr i := by
  unfold requireZero at h
  split at h
  · exact ⟨‹_›, h⟩
  · cases h

theorem requireZero_fault_congr {w : Nat} {x : BitVec w} {d d' : Decoded}
    (h : ∀ c, d = .fault c ↔ d' = .fault c) (c : Cause) :
    requireZero x d = .fault c ↔ requireZero x d' = .fault c := by
  unfold requireZero
  split
  · exact h c
  · rfl

/-- A pin code that names a pin is that pin's code, and the pin is well-formed (R101). -/
theorem pinOfCode_inv {n : Nat} {c : BitVec 4} {p : Pin} (h : pinOfCode n c = some p) :
    pinCode p = c ∧ p.wf n = true := by
  unfold pinOfCode at h
  have := c.isLt
  split_ifs at h with h0 h1 h2 h3
  · cases h; simp [pinCode, Pin.wf, h0]
  · cases h; simp [pinCode, Pin.wf, h1]
  · cases h; simp [pinCode, Pin.wf, h2]
  · cases h
    simp only [pinCode, Pin.wf, Bool.and_eq_true, decide_eq_true_eq]
    refine ⟨?_, by omega, by omega⟩
    apply BitVec.eq_of_toNat_eq
    simp
    omega

/-- The code of a well-formed pin names it (R101). -/
theorem pinOfCode_pinCode {n : Nat} {p : Pin} (h : p.wf n = true) : pinOfCode n (pinCode p) = some p := by
  cases p with
  | out q => cases q <;> rfl
  | dio i =>
    simp only [Pin.wf, Bool.and_eq_true, decide_eq_true_eq] at h
    obtain ⟨hn, h12⟩ := h
    have hc : (BitVec.ofNat 4 (4 + i)).toNat = 4 + i := by
      rw [BitVec.toNat_ofNat]; omega
    have hne : ∀ k : BitVec 4, k.toNat < 4 → BitVec.ofNat 4 (4 + i) ≠ k := by
      intro k hk hk'
      rw [← hk', hc] at hk
      omega
    rw [show pinCode (.dio i) = BitVec.ofNat 4 (4 + i) from rfl]
    unfold pinOfCode
    rw [if_neg (hne _ (by decide)), if_neg (hne _ (by decide)), if_neg (hne _ (by decide)), hc,
      if_pos (by omega)]
    congr 2
    omega

end Sys2Proof
end

