-- ==== Sys2Proof/Laws/State.lean ====
section
/-! SUPPORT. The fields of a state after each shared operation, one lemma a field, so that no proof unfolds a record update. -/

namespace Sys2Proof.Machine

/-! record -/

@[simp] theorem record_params (e : Event) (s : State) : (record e s).params = s.params := rfl
@[simp] theorem record_cfg (e : Event) (s : State) : (record e s).cfg = s.cfg := rfl
@[simp] theorem record_nest (e : Event) (s : State) : (record e s).nest = s.nest := rfl
@[simp] theorem record_edge (e : Event) (s : State) : (record e s).edge = s.edge := rfl
@[simp] theorem record_dstack (e : Event) (s : State) : (record e s).dstack = s.dstack := rfl
@[simp] theorem record_ctl (e : Event) (s : State) : (record e s).ctl = s.ctl := rfl
@[simp] theorem record_pins (e : Event) (s : State) : (record e s).pins = s.pins := rfl
@[simp] theorem record_fcause (e : Event) (s : State) : (record e s).fcause = s.fcause := rfl
@[simp] theorem record_finfo (e : Event) (s : State) : (record e s).finfo = s.finfo := rfl
@[simp] theorem record_flog (e : Event) (s : State) : (record e s).flog = s.flog := rfl
@[simp] theorem record_rkind (e : Event) (s : State) : (record e s).rkind = s.rkind := rfl
@[simp] theorem record_rdata (e : Event) (s : State) : (record e s).rdata = s.rdata := rfl
@[simp] theorem record_env (e : Event) (s : State) : (record e s).env = s.env := rfl
@[simp] theorem record_host (e : Event) (s : State) : (record e s).host = s.host := rfl
@[simp] theorem record_history (e : Event) (s : State) : (record e s).history = e :: s.history := rfl
@[simp] theorem record_inputs (e : Event) (s : State) : (record e s).inputs = s.inputs := rfl
@[simp] theorem record_drawIndex (e : Event) (s : State) : (record e s).drawIndex = s.drawIndex := rfl

/-! respondDone -/

@[simp] theorem respondDone_params (d : Word) (s : State) : (respondDone d s).params = s.params := rfl
@[simp] theorem respondDone_cfg (d : Word) (s : State) : (respondDone d s).cfg = s.cfg := rfl
@[simp] theorem respondDone_nest (d : Word) (s : State) : (respondDone d s).nest = s.nest := rfl
@[simp] theorem respondDone_edge (d : Word) (s : State) : (respondDone d s).edge = s.edge := rfl
@[simp] theorem respondDone_dstack (d : Word) (s : State) : (respondDone d s).dstack = s.dstack := rfl
@[simp] theorem respondDone_ctl (d : Word) (s : State) : (respondDone d s).ctl = .ready := rfl
@[simp] theorem respondDone_pins (d : Word) (s : State) : (respondDone d s).pins = s.pins := rfl
@[simp] theorem respondDone_fcause (d : Word) (s : State) : (respondDone d s).fcause = s.fcause := rfl
@[simp] theorem respondDone_finfo (d : Word) (s : State) : (respondDone d s).finfo = s.finfo := rfl
@[simp] theorem respondDone_flog (d : Word) (s : State) : (respondDone d s).flog = s.flog := rfl
@[simp] theorem respondDone_rkind (d : Word) (s : State) : (respondDone d s).rkind = (0 : BitVec 2) := rfl
@[simp] theorem respondDone_rdata (d : Word) (s : State) : (respondDone d s).rdata = d := rfl
@[simp] theorem respondDone_env (d : Word) (s : State) : (respondDone d s).env = s.env := rfl
@[simp] theorem respondDone_host (d : Word) (s : State) : (respondDone d s).host = s.host := rfl
@[simp] theorem respondDone_history (d : Word) (s : State) : (respondDone d s).history = .done d :: s.history := rfl
@[simp] theorem respondDone_inputs (d : Word) (s : State) : (respondDone d s).inputs = s.inputs := rfl
@[simp] theorem respondDone_drawIndex (d : Word) (s : State) : (respondDone d s).drawIndex = s.drawIndex := rfl

/-! respondDispatch -/

@[simp] theorem respondDispatch_params (i : Nat) (s : State) : (respondDispatch i s).params = s.params := rfl
@[simp] theorem respondDispatch_cfg (i : Nat) (s : State) : (respondDispatch i s).cfg = s.cfg := rfl
@[simp] theorem respondDispatch_nest (i : Nat) (s : State) : (respondDispatch i s).nest = s.nest := rfl
@[simp] theorem respondDispatch_edge (i : Nat) (s : State) : (respondDispatch i s).edge = s.edge := rfl
@[simp] theorem respondDispatch_dstack (i : Nat) (s : State) : (respondDispatch i s).dstack = s.dstack := rfl
@[simp] theorem respondDispatch_ctl (i : Nat) (s : State) : (respondDispatch i s).ctl = .ready := rfl
@[simp] theorem respondDispatch_pins (i : Nat) (s : State) : (respondDispatch i s).pins = s.pins := rfl
@[simp] theorem respondDispatch_fcause (i : Nat) (s : State) : (respondDispatch i s).fcause = s.fcause := rfl
@[simp] theorem respondDispatch_finfo (i : Nat) (s : State) : (respondDispatch i s).finfo = s.finfo := rfl
@[simp] theorem respondDispatch_flog (i : Nat) (s : State) : (respondDispatch i s).flog = s.flog := rfl
@[simp] theorem respondDispatch_rkind (i : Nat) (s : State) : (respondDispatch i s).rkind = (1 : BitVec 2) := rfl
@[simp] theorem respondDispatch_rdata (i : Nat) (s : State) : (respondDispatch i s).rdata = lineWord i := rfl
@[simp] theorem respondDispatch_env (i : Nat) (s : State) : (respondDispatch i s).env = s.env := rfl
@[simp] theorem respondDispatch_host (i : Nat) (s : State) : (respondDispatch i s).host = s.host := rfl
@[simp] theorem respondDispatch_history (i : Nat) (s : State) : (respondDispatch i s).history = .dispatch i :: s.history :=
    rfl
@[simp] theorem respondDispatch_inputs (i : Nat) (s : State) : (respondDispatch i s).inputs = s.inputs := rfl
@[simp] theorem respondDispatch_drawIndex (i : Nat) (s : State) : (respondDispatch i s).drawIndex = s.drawIndex := rfl

/-! raiseFault -/

@[simp] theorem raiseFault_params (c : Cause) (w : Word) (s : State) : (raiseFault c w s).params = s.params := rfl
@[simp] theorem raiseFault_cfg (c : Cause) (w : Word) (s : State) : (raiseFault c w s).cfg = s.cfg := rfl
@[simp] theorem raiseFault_nest (c : Cause) (w : Word) (s : State) : (raiseFault c w s).nest = s.nest := rfl
@[simp] theorem raiseFault_edge (c : Cause) (w : Word) (s : State) : (raiseFault c w s).edge = s.edge := rfl
@[simp] theorem raiseFault_dstack (c : Cause) (w : Word) (s : State) : (raiseFault c w s).dstack = s.dstack := rfl
@[simp] theorem raiseFault_ctl (c : Cause) (w : Word) (s : State) : (raiseFault c w s).ctl = .faulted := rfl
@[simp] theorem raiseFault_pins (c : Cause) (w : Word) (s : State) : (raiseFault c w s).pins = s.pins := rfl
@[simp] theorem raiseFault_fcause (c : Cause) (w : Word) (s : State) : (raiseFault c w s).fcause = causeCode c := rfl
@[simp] theorem raiseFault_finfo (c : Cause) (w : Word) (s : State) : (raiseFault c w s).finfo = w := rfl
@[simp] theorem raiseFault_flog (c : Cause) (w : Word) (s : State) : (raiseFault c w s).flog = s.flog := rfl
@[simp] theorem raiseFault_rkind (c : Cause) (w : Word) (s : State) : (raiseFault c w s).rkind = s.rkind := rfl
@[simp] theorem raiseFault_rdata (c : Cause) (w : Word) (s : State) : (raiseFault c w s).rdata = s.rdata := rfl
@[simp] theorem raiseFault_env (c : Cause) (w : Word) (s : State) : (raiseFault c w s).env = s.env := rfl
@[simp] theorem raiseFault_host (c : Cause) (w : Word) (s : State) : (raiseFault c w s).host = s.host := rfl
@[simp] theorem raiseFault_history (c : Cause) (w : Word) (s : State) : (raiseFault c w s).history = .fault c :: s.history :=
    rfl
@[simp] theorem raiseFault_inputs (c : Cause) (w : Word) (s : State) : (raiseFault c w s).inputs = s.inputs := rfl
@[simp] theorem raiseFault_drawIndex (c : Cause) (w : Word) (s : State) : (raiseFault c w s).drawIndex = s.drawIndex :=
    rfl

/-! fatalHalt -/

@[simp] theorem fatalHalt_params (c : Cause) (w : Word) (n : BitVec 24) (s : State) : (fatalHalt c w n s).params = s.params :=
    rfl
@[simp] theorem fatalHalt_cfg (c : Cause) (w : Word) (n : BitVec 24) (s : State) : (fatalHalt c w n s).cfg = s.cfg :=
    rfl
@[simp] theorem fatalHalt_nest (c : Cause) (w : Word) (n : BitVec 24) (s : State) : (fatalHalt c w n s).nest = nestSaturating s.nest :=
    rfl
@[simp] theorem fatalHalt_edge (c : Cause) (w : Word) (n : BitVec 24) (s : State) : (fatalHalt c w n s).edge = s.edge :=
    rfl
@[simp] theorem fatalHalt_dstack (c : Cause) (w : Word) (n : BitVec 24) (s : State) : (fatalHalt c w n s).dstack = s.dstack :=
    rfl
@[simp] theorem fatalHalt_ctl (c : Cause) (w : Word) (n : BitVec 24) (s : State) : (fatalHalt c w n s).ctl = .halted :=
    rfl
@[simp] theorem fatalHalt_pins (c : Cause) (w : Word) (n : BitVec 24) (s : State) : (fatalHalt c w n s).pins = s.pins :=
    rfl
@[simp] theorem fatalHalt_fcause (c : Cause) (w : Word) (n : BitVec 24) (s : State) : (fatalHalt c w n s).fcause = causeCode c :=
    rfl
@[simp] theorem fatalHalt_finfo (c : Cause) (w : Word) (n : BitVec 24) (s : State) : (fatalHalt c w n s).finfo = w :=
    rfl
@[simp] theorem fatalHalt_flog (c : Cause) (w : Word) (n : BitVec 24) (s : State) : (fatalHalt c w n s).flog = ⟨true, w, n⟩ :=
    rfl
@[simp] theorem fatalHalt_rkind (c : Cause) (w : Word) (n : BitVec 24) (s : State) : (fatalHalt c w n s).rkind = s.rkind :=
    rfl
@[simp] theorem fatalHalt_rdata (c : Cause) (w : Word) (n : BitVec 24) (s : State) : (fatalHalt c w n s).rdata = s.rdata :=
    rfl
@[simp] theorem fatalHalt_env (c : Cause) (w : Word) (n : BitVec 24) (s : State) : (fatalHalt c w n s).env = s.env :=
    rfl
@[simp] theorem fatalHalt_host (c : Cause) (w : Word) (n : BitVec 24) (s : State) : (fatalHalt c w n s).host = s.host :=
    rfl
@[simp] theorem fatalHalt_history (c : Cause) (w : Word) (n : BitVec 24) (s : State) : (fatalHalt c w n s).history = .log w n :: s.history :=
    rfl
@[simp] theorem fatalHalt_inputs (c : Cause) (w : Word) (n : BitVec 24) (s : State) : (fatalHalt c w n s).inputs = s.inputs :=
    rfl
@[simp] theorem fatalHalt_drawIndex (c : Cause) (w : Word) (n : BitVec 24) (s : State) : (fatalHalt c w n s).drawIndex = s.drawIndex :=
    rfl

/-! continueAt -/

@[simp] theorem continueAt_params (m : Micro) (s : State) : (continueAt m s).params = s.params := rfl
@[simp] theorem continueAt_cfg (m : Micro) (s : State) : (continueAt m s).cfg = s.cfg := rfl
@[simp] theorem continueAt_nest (m : Micro) (s : State) : (continueAt m s).nest = s.nest := rfl
@[simp] theorem continueAt_edge (m : Micro) (s : State) : (continueAt m s).edge = s.edge := rfl
@[simp] theorem continueAt_dstack (m : Micro) (s : State) : (continueAt m s).dstack = s.dstack := rfl
@[simp] theorem continueAt_ctl (m : Micro) (s : State) : (continueAt m s).ctl = .exec m := rfl
@[simp] theorem continueAt_pins (m : Micro) (s : State) : (continueAt m s).pins = s.pins := rfl
@[simp] theorem continueAt_fcause (m : Micro) (s : State) : (continueAt m s).fcause = s.fcause := rfl
@[simp] theorem continueAt_finfo (m : Micro) (s : State) : (continueAt m s).finfo = s.finfo := rfl
@[simp] theorem continueAt_flog (m : Micro) (s : State) : (continueAt m s).flog = s.flog := rfl
@[simp] theorem continueAt_rkind (m : Micro) (s : State) : (continueAt m s).rkind = s.rkind := rfl
@[simp] theorem continueAt_rdata (m : Micro) (s : State) : (continueAt m s).rdata = s.rdata := rfl
@[simp] theorem continueAt_env (m : Micro) (s : State) : (continueAt m s).env = s.env := rfl
@[simp] theorem continueAt_host (m : Micro) (s : State) : (continueAt m s).host = s.host := rfl
@[simp] theorem continueAt_history (m : Micro) (s : State) : (continueAt m s).history = s.history := rfl
@[simp] theorem continueAt_inputs (m : Micro) (s : State) : (continueAt m s).inputs = s.inputs := rfl
@[simp] theorem continueAt_drawIndex (m : Micro) (s : State) : (continueAt m s).drawIndex = s.drawIndex := rfl

/-! pinDrive -/

@[simp] theorem pinDrive_params (p : OutPin) (l : Level) (s : State) : (pinDrive p l s).params = s.params := rfl
@[simp] theorem pinDrive_cfg (p : OutPin) (l : Level) (s : State) : (pinDrive p l s).cfg = s.cfg := rfl
@[simp] theorem pinDrive_nest (p : OutPin) (l : Level) (s : State) : (pinDrive p l s).nest = s.nest := rfl
@[simp] theorem pinDrive_edge (p : OutPin) (l : Level) (s : State) : (pinDrive p l s).edge = s.edge := rfl
@[simp] theorem pinDrive_dstack (p : OutPin) (l : Level) (s : State) : (pinDrive p l s).dstack = s.dstack := rfl
@[simp] theorem pinDrive_ctl (p : OutPin) (l : Level) (s : State) : (pinDrive p l s).ctl = s.ctl := rfl
@[simp] theorem pinDrive_pins (p : OutPin) (l : Level) (s : State) : (pinDrive p l s).pins = s.pins.set p (some ⟨.output, l⟩) :=
    rfl
@[simp] theorem pinDrive_fcause (p : OutPin) (l : Level) (s : State) : (pinDrive p l s).fcause = s.fcause := rfl
@[simp] theorem pinDrive_finfo (p : OutPin) (l : Level) (s : State) : (pinDrive p l s).finfo = s.finfo := rfl
@[simp] theorem pinDrive_flog (p : OutPin) (l : Level) (s : State) : (pinDrive p l s).flog = s.flog := rfl
@[simp] theorem pinDrive_rkind (p : OutPin) (l : Level) (s : State) : (pinDrive p l s).rkind = s.rkind := rfl
@[simp] theorem pinDrive_rdata (p : OutPin) (l : Level) (s : State) : (pinDrive p l s).rdata = s.rdata := rfl
@[simp] theorem pinDrive_env (p : OutPin) (l : Level) (s : State) : (pinDrive p l s).env = s.env := rfl
@[simp] theorem pinDrive_host (p : OutPin) (l : Level) (s : State) : (pinDrive p l s).host = s.host := rfl
@[simp] theorem pinDrive_history (p : OutPin) (l : Level) (s : State) : (pinDrive p l s).history = .drive p l :: s.history :=
    rfl
@[simp] theorem pinDrive_inputs (p : OutPin) (l : Level) (s : State) : (pinDrive p l s).inputs = s.inputs := rfl
@[simp] theorem pinDrive_drawIndex (p : OutPin) (l : Level) (s : State) : (pinDrive p l s).drawIndex = s.drawIndex :=
    rfl

/-! pinFloat -/

@[simp] theorem pinFloat_params (p : OutPin) (s : State) : (pinFloat p s).params = s.params := rfl
@[simp] theorem pinFloat_cfg (p : OutPin) (s : State) : (pinFloat p s).cfg = s.cfg := rfl
@[simp] theorem pinFloat_nest (p : OutPin) (s : State) : (pinFloat p s).nest = s.nest := rfl
@[simp] theorem pinFloat_edge (p : OutPin) (s : State) : (pinFloat p s).edge = s.edge := rfl
@[simp] theorem pinFloat_dstack (p : OutPin) (s : State) : (pinFloat p s).dstack = s.dstack := rfl
@[simp] theorem pinFloat_ctl (p : OutPin) (s : State) : (pinFloat p s).ctl = s.ctl := rfl
@[simp] theorem pinFloat_pins (p : OutPin) (s : State) : (pinFloat p s).pins = s.pins.set p ((s.pins.get p).map fun q => { q with mode := .input }) :=
    rfl
@[simp] theorem pinFloat_fcause (p : OutPin) (s : State) : (pinFloat p s).fcause = s.fcause := rfl
@[simp] theorem pinFloat_finfo (p : OutPin) (s : State) : (pinFloat p s).finfo = s.finfo := rfl
@[simp] theorem pinFloat_flog (p : OutPin) (s : State) : (pinFloat p s).flog = s.flog := rfl
@[simp] theorem pinFloat_rkind (p : OutPin) (s : State) : (pinFloat p s).rkind = s.rkind := rfl
@[simp] theorem pinFloat_rdata (p : OutPin) (s : State) : (pinFloat p s).rdata = s.rdata := rfl
@[simp] theorem pinFloat_env (p : OutPin) (s : State) : (pinFloat p s).env = s.env := rfl
@[simp] theorem pinFloat_host (p : OutPin) (s : State) : (pinFloat p s).host = s.host := rfl
@[simp] theorem pinFloat_history (p : OutPin) (s : State) : (pinFloat p s).history = .float p :: s.history := rfl
@[simp] theorem pinFloat_inputs (p : OutPin) (s : State) : (pinFloat p s).inputs = s.inputs := rfl
@[simp] theorem pinFloat_drawIndex (p : OutPin) (s : State) : (pinFloat p s).drawIndex = s.drawIndex := rfl

/-! pinRead -/

@[simp] theorem pinRead_params (p : Pin) (s : State) : (pinRead p s).params = s.params := rfl
@[simp] theorem pinRead_cfg (p : Pin) (s : State) : (pinRead p s).cfg = s.cfg := rfl
@[simp] theorem pinRead_nest (p : Pin) (s : State) : (pinRead p s).nest = s.nest := rfl
@[simp] theorem pinRead_edge (p : Pin) (s : State) : (pinRead p s).edge = s.edge := rfl
@[simp] theorem pinRead_dstack (p : Pin) (s : State) : (pinRead p s).dstack = s.dstack := rfl
@[simp] theorem pinRead_ctl (p : Pin) (s : State) : (pinRead p s).ctl = s.ctl := rfl
@[simp] theorem pinRead_pins (p : Pin) (s : State) : (pinRead p s).pins = s.pins := rfl
@[simp] theorem pinRead_fcause (p : Pin) (s : State) : (pinRead p s).fcause = s.fcause := rfl
@[simp] theorem pinRead_finfo (p : Pin) (s : State) : (pinRead p s).finfo = s.finfo := rfl
@[simp] theorem pinRead_flog (p : Pin) (s : State) : (pinRead p s).flog = s.flog := rfl
@[simp] theorem pinRead_rkind (p : Pin) (s : State) : (pinRead p s).rkind = s.rkind := rfl
@[simp] theorem pinRead_rdata (p : Pin) (s : State) : (pinRead p s).rdata = s.rdata := rfl
@[simp] theorem pinRead_env (p : Pin) (s : State) : (pinRead p s).env = s.env := rfl
@[simp] theorem pinRead_host (p : Pin) (s : State) : (pinRead p s).host = s.host := rfl
@[simp] theorem pinRead_history (p : Pin) (s : State) : (pinRead p s).history = .read p (extLevel s.env.ext p) :: s.history :=
    rfl
@[simp] theorem pinRead_inputs (p : Pin) (s : State) : (pinRead p s).inputs = s.inputs := rfl
@[simp] theorem pinRead_drawIndex (p : Pin) (s : State) : (pinRead p s).drawIndex = s.drawIndex := rfl

/-! readCounter -/

@[simp] theorem readCounter_params (s : State) : (readCounter s).params = s.params := rfl
@[simp] theorem readCounter_cfg (s : State) : (readCounter s).cfg = s.cfg := rfl
@[simp] theorem readCounter_nest (s : State) : (readCounter s).nest = s.nest := rfl
@[simp] theorem readCounter_edge (s : State) : (readCounter s).edge = s.edge := rfl
@[simp] theorem readCounter_dstack (s : State) : (readCounter s).dstack = s.dstack := rfl
@[simp] theorem readCounter_ctl (s : State) : (readCounter s).ctl = s.ctl := rfl
@[simp] theorem readCounter_pins (s : State) : (readCounter s).pins = s.pins := rfl
@[simp] theorem readCounter_fcause (s : State) : (readCounter s).fcause = s.fcause := rfl
@[simp] theorem readCounter_finfo (s : State) : (readCounter s).finfo = s.finfo := rfl
@[simp] theorem readCounter_flog (s : State) : (readCounter s).flog = s.flog := rfl
@[simp] theorem readCounter_rkind (s : State) : (readCounter s).rkind = s.rkind := rfl
@[simp] theorem readCounter_rdata (s : State) : (readCounter s).rdata = s.rdata := rfl
@[simp] theorem readCounter_env (s : State) : (readCounter s).env = s.env := rfl
@[simp] theorem readCounter_host (s : State) : (readCounter s).host = s.host := rfl
@[simp] theorem readCounter_history (s : State) : (readCounter s).history = .cnt s.env.cnt :: s.history := rfl
@[simp] theorem readCounter_inputs (s : State) : (readCounter s).inputs = s.inputs := rfl
@[simp] theorem readCounter_drawIndex (s : State) : (readCounter s).drawIndex = s.drawIndex := rfl

/-! spiExchange -/

@[simp] theorem spiExchange_params (b : Byte) (s : State) : (spiExchange b s).params = s.params := rfl
@[simp] theorem spiExchange_cfg (b : Byte) (s : State) : (spiExchange b s).cfg = s.cfg := rfl
@[simp] theorem spiExchange_nest (b : Byte) (s : State) : (spiExchange b s).nest = s.nest := rfl
@[simp] theorem spiExchange_edge (b : Byte) (s : State) : (spiExchange b s).edge = s.edge := rfl
@[simp] theorem spiExchange_dstack (b : Byte) (s : State) : (spiExchange b s).dstack = s.dstack := rfl
@[simp] theorem spiExchange_ctl (b : Byte) (s : State) : (spiExchange b s).ctl = s.ctl := rfl
@[simp] theorem spiExchange_pins (b : Byte) (s : State) : (spiExchange b s).pins = s.pins := rfl
@[simp] theorem spiExchange_fcause (b : Byte) (s : State) : (spiExchange b s).fcause = s.fcause := rfl
@[simp] theorem spiExchange_finfo (b : Byte) (s : State) : (spiExchange b s).finfo = s.finfo := rfl
@[simp] theorem spiExchange_flog (b : Byte) (s : State) : (spiExchange b s).flog = s.flog := rfl
@[simp] theorem spiExchange_rkind (b : Byte) (s : State) : (spiExchange b s).rkind = s.rkind := rfl
@[simp] theorem spiExchange_rdata (b : Byte) (s : State) : (spiExchange b s).rdata = s.rdata := rfl
@[simp] theorem spiExchange_env (b : Byte) (s : State) : (spiExchange b s).env = s.env := rfl
@[simp] theorem spiExchange_host (b : Byte) (s : State) : (spiExchange b s).host = s.host := rfl
@[simp] theorem spiExchange_history (b : Byte) (s : State) : (spiExchange b s).history = .xfer b s.env.busErr s.env.busByte :: s.history :=
    rfl
@[simp] theorem spiExchange_inputs (b : Byte) (s : State) : (spiExchange b s).inputs = s.inputs := rfl
@[simp] theorem spiExchange_drawIndex (b : Byte) (s : State) : (spiExchange b s).drawIndex = s.drawIndex := rfl

/-! applyMove -/

@[simp] theorem applyMove_params (m : EnvMove) (s : State) : (applyMove m s).params = s.params := rfl
@[simp] theorem applyMove_cfg (m : EnvMove) (s : State) : (applyMove m s).cfg = s.cfg := rfl
@[simp] theorem applyMove_nest (m : EnvMove) (s : State) : (applyMove m s).nest = s.nest := rfl
@[simp] theorem applyMove_edge (m : EnvMove) (s : State) : (applyMove m s).edge = s.edge := rfl
@[simp] theorem applyMove_dstack (m : EnvMove) (s : State) : (applyMove m s).dstack = s.dstack := rfl
@[simp] theorem applyMove_ctl (m : EnvMove) (s : State) : (applyMove m s).ctl = s.ctl := rfl
@[simp] theorem applyMove_pins (m : EnvMove) (s : State) : (applyMove m s).pins = s.pins := rfl
@[simp] theorem applyMove_fcause (m : EnvMove) (s : State) : (applyMove m s).fcause = s.fcause := rfl
@[simp] theorem applyMove_finfo (m : EnvMove) (s : State) : (applyMove m s).finfo = s.finfo := rfl
@[simp] theorem applyMove_flog (m : EnvMove) (s : State) : (applyMove m s).flog = s.flog := rfl
@[simp] theorem applyMove_rkind (m : EnvMove) (s : State) : (applyMove m s).rkind = s.rkind := rfl
@[simp] theorem applyMove_rdata (m : EnvMove) (s : State) : (applyMove m s).rdata = s.rdata := rfl
@[simp] theorem applyMove_env (m : EnvMove) (s : State) : (applyMove m s).env = moveEnv s.params m s.env := rfl
@[simp] theorem applyMove_host (m : EnvMove) (s : State) : (applyMove m s).host = s.host := rfl
@[simp] theorem applyMove_history (m : EnvMove) (s : State) : (applyMove m s).history = s.history := rfl
@[simp] theorem applyMove_inputs (m : EnvMove) (s : State) : (applyMove m s).inputs = s.inputs := rfl
@[simp] theorem applyMove_drawIndex (m : EnvMove) (s : State) : (applyMove m s).drawIndex = s.drawIndex := rfl

/-! The pin bank -/

@[simp] theorem PinBank.get_set (b : PinBank) (p q : OutPin) (v : Option PinState) :
    (b.set p v).get q = if q = p then v else b.get q := by
  cases p <;> cases q <;> rfl

@[simp] theorem PinBank.set_cs_cs (b : PinBank) (v : Option PinState) : (b.set .cs v).cs = v := rfl
@[simp] theorem PinBank.set_cs_rst (b : PinBank) (v : Option PinState) : (b.set .cs v).rst = b.rst := rfl
@[simp] theorem PinBank.set_cs_rxtx (b : PinBank) (v : Option PinState) : (b.set .cs v).rxtx = b.rxtx := rfl
@[simp] theorem PinBank.set_rst_cs (b : PinBank) (v : Option PinState) : (b.set .rst v).cs = b.cs := rfl
@[simp] theorem PinBank.set_rst_rst (b : PinBank) (v : Option PinState) : (b.set .rst v).rst = v := rfl
@[simp] theorem PinBank.set_rst_rxtx (b : PinBank) (v : Option PinState) : (b.set .rst v).rxtx = b.rxtx := rfl
@[simp] theorem PinBank.set_rxtx_cs (b : PinBank) (v : Option PinState) : (b.set .rxtx v).cs = b.cs := rfl
@[simp] theorem PinBank.set_rxtx_rst (b : PinBank) (v : Option PinState) : (b.set .rxtx v).rst = b.rst := rfl
@[simp] theorem PinBank.set_rxtx_rxtx (b : PinBank) (v : Option PinState) : (b.set .rxtx v).rxtx = v := rfl

end Sys2Proof.Machine
end

