-- ==== Sys2Proof/Laws/Ops.lean ====
section
/-! SUPPORT. What each shared operation can do, said once: lookups, dispatch entry, the scan's choice of line, the environment's
moves, the meanings behind the dispatch, and the step (its inversion, `step_cases`). -/

namespace Sys2Proof.Machine

/-! ## Outcomes -/

@[simp] theorem next_inj (s t : State) :
    ((Host.Outcome.next s : Result) = .next t) ↔ s = t := by
  constructor
  · intro h; injection h
  · rintro rfl; rfl

/-! ## Comparisons on the nesting counter and the comparator -/

theorem nest_eq_top (n : BitVec 32) : n = BitVec.allOnes 32 ↔ n.toNat = 2 ^ 32 - 1 := by
  rw [← BitVec.toNat_inj, BitVec.toNat_allOnes]

theorem nestSaturating_eq (n : BitVec 32) :
    nestSaturating n = if n.toNat < 2 ^ 32 - 1 then n + 1 else n := by
  have h := nest_eq_top n
  have := n.isLt
  unfold nestSaturating
  by_cases hn : n = BitVec.allOnes 32
  · have := h.1 hn; rw [if_pos hn, if_neg (by omega)]
  · have : n.toNat ≠ 2 ^ 32 - 1 := fun e => hn (h.2 e)
    rw [if_neg hn, if_pos (by omega)]

theorem reached_iff (d n : Word) : reached d n = true ↔ (d - n).toInt ≤ 0 := by
  simp [reached, delta]

theorem reached_false_iff (d n : Word) : reached d n = false ↔ 0 < (d - n).toInt := by
  simp [reached, delta]

theorem tick_eq (p : Params) (c : Nat) : tick p c = BitVec.ofNat 32 (c / 2 ^ p.tickShift) := by
  simp [tick, Nat.shiftRight_eq_div_pow]

/-- The coordinator is Live exactly at `NEST` = 0 (R28). -/
theorem coordinatorState_live (s : State) : coordinatorState s = .live ↔ s.nest = 0 := by
  unfold coordinatorState
  split <;> simp_all

/-! ## The scan's choice of line -/

theorem nextWired_eq_some {s : State} {r i : Nat} :
    nextWired s r = some i ↔
      r ≤ i ∧ i < s.params.numDio ∧ dioWired s i = true ∧ ∀ j, r ≤ j → j < i → dioWired s j = false := by
  unfold nextWired
  rw [List.find?_range_eq_some]
  simp only [Bool.and_eq_true, decide_eq_true_eq, List.mem_range, Bool.not_eq_true', Bool.and_eq_false_iff,
    decide_eq_false_iff_not, Nat.not_le]
  constructor
  · rintro ⟨⟨h1, h2⟩, h3, h4⟩
    exact ⟨h1, h3, h2, fun j hj hji => (h4 j hji).resolve_left (by omega)⟩
  · rintro ⟨h1, h2, h3, h4⟩
    refine ⟨⟨h1, h3⟩, h2, fun j hj => ?_⟩
    by_cases hr : r ≤ j
    · exact .inr (h4 j hr hj)
    · exact .inl (by omega)

theorem nextWired_eq_none {s : State} {r : Nat} :
    nextWired s r = none ↔ ∀ j, r ≤ j → j < s.params.numDio → dioWired s j = false := by
  unfold nextWired
  simp only [List.find?_eq_none, List.mem_range, Bool.and_eq_true, decide_eq_true_eq, not_and,
    Bool.not_eq_true]
  exact ⟨fun h j hr hj => h j hj hr, fun h j hj hr => h j hr hj⟩

/-! ## Dispatch entry -/

theorem dispatch_eq_respond {f : Frame} {line : Nat} {s : State}
    (h : s.dstack.length ≠ s.params.dispatchDepthMax) :
    dispatch f line s = respondDispatch line { s with dstack := f :: s.dstack } := if_neg h

theorem dispatch_eq_fault {f : Frame} {line : Nat} {s : State}
    (h : s.dstack.length = s.params.dispatchDepthMax) :
    dispatch f line s = raiseFault .dispatchDepth (lineWord line) s := if_pos h

/-! ## A line's sample -/

theorem sampleLine_same {i : Nat} {s : State} (h : extLevel s.env.ext (.dio i) = edgeLevel s i) :
    sampleLine i s = continueAt (.scan (i + 1)) (pinRead (.dio i) s) := by
  simp [sampleLine, h]

theorem sampleLine_fall {i : Nat} {s : State} (hl : extLevel s.env.ext (.dio i) = false)
    (he : edgeLevel s i = true) :
    sampleLine i s =
      continueAt (.scan (i + 1)) { pinRead (.dio i) s with edge := s.edge.set i false } := by
  simp [sampleLine, hl, he]

theorem sampleLine_rise {i : Nat} {s : State} (hl : extLevel s.env.ext (.dio i) = true)
    (he : edgeLevel s i = false) :
    sampleLine i s =
      dispatch (.line (i + 1)) i { pinRead (.dio i) s with edge := s.edge.set i true } := by
  simp [sampleLine, hl, he]

/-- The three things a sample can find. -/
theorem sampleLine_cases (i : Nat) (s : State) :
    (extLevel s.env.ext (.dio i) = edgeLevel s i ∧
      sampleLine i s = continueAt (.scan (i + 1)) (pinRead (.dio i) s)) ∨
    (extLevel s.env.ext (.dio i) = false ∧ edgeLevel s i = true ∧
      sampleLine i s =
        continueAt (.scan (i + 1)) { pinRead (.dio i) s with edge := s.edge.set i false }) ∨
    (extLevel s.env.ext (.dio i) = true ∧ edgeLevel s i = false ∧
      sampleLine i s =
        dispatch (.line (i + 1)) i { pinRead (.dio i) s with edge := s.edge.set i true }) := by
  cases hl : extLevel s.env.ext (.dio i) <;> cases he : edgeLevel s i
  · exact .inl ⟨rfl, sampleLine_same (hl.trans he.symm)⟩
  · exact .inr (.inl ⟨rfl, rfl, sampleLine_fall hl he⟩)
  · exact .inr (.inr ⟨rfl, rfl, sampleLine_rise hl he⟩)
  · exact .inl ⟨rfl, sampleLine_same (hl.trans he.symm)⟩

theorem edgeLevel_set {s : State} {i j : Nat} {l : Level} (h : i < s.edge.length) :
    (s.edge.set i l).getD j false = if j = i then l else edgeLevel s j := by
  unfold edgeLevel
  by_cases hj : j = i
  · subst hj; simp [List.getD, h]
  · simp [List.getD, List.getElem?_set_ne (Ne.symm hj), hj]

/-! ## The environment's moves -/

@[simp] theorem overlay_length (old new : List Level) : (overlay old new).length = old.length := by
  induction old generalizing new with
  | nil => rfl
  | cons o os ih =>
    cases new with
    | nil => rfl
    | cons n ns => simp [overlay, ih]

theorem overlay_new {old new : List Level} {i : Nat} {l : Level} (hi : i < old.length)
    (h : new[i]? = some l) : (overlay old new)[i]? = some l := by
  induction old generalizing new i with
  | nil => simp at hi
  | cons o os ih =>
    cases new with
    | nil => simp at h
    | cons n ns =>
      cases i with
      | zero => simpa [overlay] using h
      | succ i => simpa [overlay] using ih (by simpa using hi) (by simpa using h)

theorem overlay_old {old new : List Level} {i : Nat} (h : new[i]? = none) :
    (overlay old new)[i]? = old[i]? := by
  induction old generalizing new i with
  | nil => rfl
  | cons o os ih =>
    cases new with
    | nil => rfl
    | cons n ns =>
      cases i with
      | zero => simp at h
      | succ i => simpa [overlay] using ih (by simpa using h)

/-- The environment's moves change the environment and the model's own input fields alone. -/
theorem moved_eq (s : State) :
    moved s = { s with env := (moved s).env, inputs := s.inputs.tail, drawIndex := (moved s).drawIndex } := by
  unfold moved
  split <;> rename_i h <;> simp [applyMove, h]

@[simp] theorem moved_params (s : State) : (moved s).params = s.params := by rw [moved_eq]
@[simp] theorem moved_cfg (s : State) : (moved s).cfg = s.cfg := by rw [moved_eq]
@[simp] theorem moved_nest (s : State) : (moved s).nest = s.nest := by rw [moved_eq]
@[simp] theorem moved_edge (s : State) : (moved s).edge = s.edge := by rw [moved_eq]
@[simp] theorem moved_dstack (s : State) : (moved s).dstack = s.dstack := by rw [moved_eq]
@[simp] theorem moved_ctl (s : State) : (moved s).ctl = s.ctl := by rw [moved_eq]
@[simp] theorem moved_pins (s : State) : (moved s).pins = s.pins := by rw [moved_eq]
@[simp] theorem moved_fcause (s : State) : (moved s).fcause = s.fcause := by rw [moved_eq]
@[simp] theorem moved_finfo (s : State) : (moved s).finfo = s.finfo := by rw [moved_eq]
@[simp] theorem moved_flog (s : State) : (moved s).flog = s.flog := by rw [moved_eq]
@[simp] theorem moved_rkind (s : State) : (moved s).rkind = s.rkind := by rw [moved_eq]
@[simp] theorem moved_rdata (s : State) : (moved s).rdata = s.rdata := by rw [moved_eq]
@[simp] theorem moved_host (s : State) : (moved s).host = s.host := by rw [moved_eq]
@[simp] theorem moved_history (s : State) : (moved s).history = s.history := by rw [moved_eq]
@[simp] theorem moved_inputs (s : State) : (moved s).inputs = s.inputs.tail := by rw [moved_eq]

@[simp] theorem moved_ext_length (s : State) :
    (moved s).env.ext.dio.length = s.env.ext.dio.length := by
  unfold moved
  split <;> simp [applyMove, moveEnv]

theorem moved_cnt_width (s : State) : (moved s).env.cnt < 2 ^ s.params.cntW := by
  unfold moved
  split <;> exact Nat.mod_lt _ (Nat.two_pow_pos _)

theorem moved_env_of_move {s : State} {m : EnvMove} {rest : List Input} (h : s.inputs = .move m :: rest) :
    (moved s).env = moveEnv s.params m s.env := by
  simp [moved, h]

theorem pendingReset_of_noReset {s : State} (h : s.noReset) : pendingReset s = none := by
  unfold pendingReset
  split
  · rename_i m r rest he
    exact absurd (by rw [he]; exact List.mem_cons_self) (h m r)
  all_goals rfl

theorem noReset_tail {s t : State} (h : s.noReset) (ht : t.inputs = s.inputs.tail) : t.noReset := by
  intro m r hm
  rw [ht] at hm
  exact h m r (List.mem_of_mem_tail hm)

/-! ## The meanings behind the dispatch -/

theorem execIrqEnable_cases (s : State) :
    (s.nest = 0 ∧ s.params.underflowPolicy = .clamp ∧ execIrqEnable s = .next (respondDone 0 s)) ∨
    (s.nest = 0 ∧ s.params.underflowPolicy = .fault ∧
      execIrqEnable s = .next (raiseFault .nestUnderflow 0 s)) ∨
    (s.nest = 1 ∧ s.cfg.mode = .dedicatedLine ∧
      execIrqEnable s = .next (continueAt (.scan 0) { s with nest := 0 })) ∨
    (s.nest = 1 ∧ s.cfg.mode = .busProbe ∧
      execIrqEnable s = .next (continueAt .probeAssert { s with nest := 0 })) ∨
    (s.nest ≠ 0 ∧ s.nest ≠ 1 ∧ execIrqEnable s = .next (respondDone 0 { s with nest := s.nest - 1 })) := by
  by_cases h0 : s.nest = 0
  · cases hp : s.params.underflowPolicy
    · exact .inl ⟨h0, rfl, by simp [execIrqEnable, unmatchedEnable, h0, hp]⟩
    · exact .inr (.inl ⟨h0, rfl, by simp [execIrqEnable, unmatchedEnable, h0, hp]⟩)
  · by_cases h1 : s.nest = 1
    · cases hm : s.cfg.mode
      · exact .inr (.inr (.inl ⟨h1, rfl, by simp [execIrqEnable, startCheck, h1, hm]⟩))
      · exact .inr (.inr (.inr (.inl ⟨h1, rfl, by simp [execIrqEnable, startCheck, h1, hm]⟩)))
    · exact .inr (.inr (.inr (.inr ⟨h0, h1, by rw [execIrqEnable, if_neg h0, if_neg h1]⟩)))

theorem execHret_cases (s : State) :
    (s.dstack = [] ∧ execHret s = .next (raiseFault .hretNoDispatch 0 s)) ∨
    (s.dstack ≠ [] ∧ s.nest ≠ 0 ∧ execHret s = .next (raiseFault .hretUnbalanced s.nest s)) ∨
    (∃ r rest, s.dstack = .line r :: rest ∧ s.nest = 0 ∧
      execHret s = .next (continueAt (.scan r) { s with dstack := rest })) ∨
    (∃ rest, s.dstack = .probe :: rest ∧ s.nest = 0 ∧
      execHret s = .next (respondDone 0 { s with dstack := rest })) := by
  unfold execHret
  cases hd : s.dstack with
  | nil => exact .inl ⟨rfl, rfl⟩
  | cons f rest =>
    by_cases h0 : s.nest = 0
    · cases f with
      | line r => exact .inr (.inr (.inl ⟨r, rest, rfl, h0, by simp [h0, resumeFrame]⟩))
      | probe => exact .inr (.inr (.inr ⟨rest, rfl, h0, by simp [h0, resumeFrame]⟩))
    · exact .inr (.inl ⟨by simp, h0, by simp only [if_neg h0]⟩)

theorem waitSample_cases (d : Word) (s : State) :
    (0 < (d - tick s.params s.env.cnt).toInt ∧
      waitSample d s = { readCounter s with ctl := .waiting d }) ∨
    ((d - tick s.params s.env.cnt).toInt ≤ 0 ∧ waitSample d s = respondDone 0 (readCounter s)) := by
  unfold waitSample
  cases h : reached d (tick s.params s.env.cnt)
  · exact .inl ⟨(reached_false_iff _ _).1 h, by simp⟩
  · exact .inr ⟨(reached_iff _ _).1 h, by simp⟩

/-- A decoded pin-set command: its micro-step follows on a wired pin, and it is done on an unused one. -/
theorem setPin_cases (p : OutPin) (m : Micro) (s : State) :
    (outWired s p = true ∧ setPin p m s = continueAt m s) ∨
    (outWired s p = false ∧ setPin p m s = respondDone 0 s) := by
  unfold setPin
  cases h : outWired s p
  · exact .inr ⟨rfl, rfl⟩
  · exact .inl ⟨rfl, rfl⟩

theorem exchangeAndRespond_cases (b : Byte) (s : State) :
    (s.env.busErr = true ∧ exchangeAndRespond b s = continueAt .transportFatal (spiExchange b s)) ∨
    (s.env.busErr = false ∧
      exchangeAndRespond b s = respondDone (byteWord s.env.busByte) (spiExchange b s)) := by
  unfold exchangeAndRespond
  cases h : s.env.busErr
  · exact .inr ⟨rfl, rfl⟩
  · exact .inl ⟨rfl, rfl⟩

/-- What a decoded GET_LEVEL can do. -/
theorem execGetLevel_cases (p : Pin) (s : State) :
    (microLegal s (.read p) = true ∧ execGetLevel p s = .next (continueAt (.read p) s)) ∨
    execGetLevel p s = .next (anyLevelAndRespond s) ∨
    execGetLevel p s = .next (raiseFault .illegalOperand (encodeCmd (.getLevel p)) s) := by
  cases p with
  | out q =>
    cases h : outReadable s q
    · exact .inr (.inl (by simp [execGetLevel, h]))
    · exact .inl ⟨h, by simp [execGetLevel, h]⟩
  | dio i =>
    by_cases hi : i < s.params.numDio
    · cases h : dioWired s i
      · exact .inr (.inl (by simp [execGetLevel, hi, h]))
      · exact .inl ⟨h, by simp [execGetLevel, hi, h]⟩
    · exact .inr (.inr (by simp [execGetLevel, hi]))

/-- A command's meaning always answers a next state: what the spec calls a fault is a state of the block (R233). -/
theorem exec_next (i : Instr) (s : State) : ∃ t, exec i s = .next t := by
  cases i <;> exact ⟨_, rfl⟩

/-- All a command can do in the micro-step that decodes it, by the kind of its outcome: its own primitive is pending; it is done
with nothing else changed; it raises a fault; or it is one of the commands that write `NEST`, `DSTACK` or the stop registers. -/
theorem exec_cases {i : Instr} {s t : State} (h : exec i s = .next t) :
    (∃ k, pendingPrimitive i = some k ∧ ctlLegal { s with ctl := k } = true ∧ t = { s with ctl := k }) ∨
    (∃ d, t = respondDone d s) ∨
    (∃ c w, c ≠ .transportFault ∧ c ≠ .reportFatal ∧ t = raiseFault c w s) ∨
    (i = .irqDisable ∧ s.nest ≠ BitVec.allOnes 32 ∧ t = respondDone 0 { s with nest := s.nest + 1 }) ∨
    (i = .irqEnable ∧ s.nest ≠ 0 ∧ s.nest ≠ 1 ∧ t = respondDone 0 { s with nest := s.nest - 1 }) ∨
    (i = .irqEnable ∧ s.nest = 1 ∧
      ∃ m, (s.cfg.mode = .dedicatedLine ∧ m = .scan 0 ∨ s.cfg.mode = .busProbe ∧ m = .probeAssert) ∧
        t = continueAt m { s with nest := 0 }) ∨
    (i = .hret ∧ s.nest = 0 ∧
      ∃ r rest, s.dstack = .line r :: rest ∧ t = continueAt (.scan r) { s with dstack := rest }) ∨
    (i = .hret ∧ s.nest = 0 ∧ ∃ rest, s.dstack = .probe :: rest ∧ t = respondDone 0 { s with dstack := rest }) ∨
    (∃ loc line, i = .fatal loc line ∧ t = fatalHalt .reportFatal loc line s) := by
  have set : ∀ {p m}, pendingPrimitive i = some (.exec m) → (outWired s p = true → microLegal s m = true) →
      t = setPin p m s →
      (∃ k, pendingPrimitive i = some k ∧ ctlLegal { s with ctl := k } = true ∧ t = { s with ctl := k }) ∨
      ∃ d, t = respondDone d s := by
    intro p m hm hl e
    rcases setPin_cases p m s with ⟨hw, e'⟩ | ⟨_, e'⟩ <;> rw [e'] at e
    · exact .inl ⟨_, hm, by cases m <;> exact hl hw, e⟩
    · exact .inr ⟨0, e⟩
  cases i with
  | irqDisable =>
    simp only [exec, execIrqDisable, next_inj] at h
    split at h <;> subst h
    · exact .inr (.inr (.inl ⟨.nestOverflow, _, nofun, nofun, rfl⟩))
    · exact .inr (.inr (.inr (.inl ⟨rfl, ‹_›, rfl⟩)))
  | irqEnable =>
    simp only [exec] at h
    rcases execIrqEnable_cases s with ⟨_, _, e⟩ | ⟨_, _, e⟩ | ⟨h1, hm, e⟩ | ⟨h1, hm, e⟩ | ⟨h0, h1, e⟩ <;>
      rw [e, next_inj] at h <;> subst h
    · exact .inr (.inl ⟨0, rfl⟩)
    · exact .inr (.inr (.inl ⟨.nestUnderflow, _, nofun, nofun, rfl⟩))
    · exact .inr (.inr (.inr (.inr (.inr (.inl ⟨rfl, h1, _, .inl ⟨hm, rfl⟩, rfl⟩)))))
    · exact .inr (.inr (.inr (.inr (.inr (.inl ⟨rfl, h1, _, .inr ⟨hm, rfl⟩, rfl⟩)))))
    · exact .inr (.inr (.inr (.inr (.inl ⟨rfl, h0, h1, rfl⟩))))
  | hret =>
    simp only [exec] at h
    rcases execHret_cases s with ⟨_, e⟩ | ⟨_, _, e⟩ | ⟨r, rest, hd, h0, e⟩ | ⟨rest, hd, h0, e⟩ <;>
      rw [e, next_inj] at h <;> subst h
    · exact .inr (.inr (.inl ⟨.hretNoDispatch, _, nofun, nofun, rfl⟩))
    · exact .inr (.inr (.inl ⟨.hretUnbalanced, _, nofun, nofun, rfl⟩))
    · exact .inr (.inr (.inr (.inr (.inr (.inr (.inl ⟨rfl, h0, r, rest, hd, rfl⟩))))))
    · exact .inr (.inr (.inr (.inr (.inr (.inr (.inr (.inl ⟨rfl, h0, rest, hd, rfl⟩)))))))
  | tickNow => exact .inl ⟨_, rfl, rfl, ((next_inj _ _).1 h).symm⟩
  | tickUntil d => exact .inl ⟨_, rfl, rfl, ((next_inj _ _).1 h).symm⟩
  | tickReached d => exact .inl ⟨_, rfl, rfl, ((next_inj _ _).1 h).symm⟩
  | tickWait d => exact .inl ⟨_, rfl, rfl, ((next_inj _ _).1 h).symm⟩
  | spiXfer b => exact .inl ⟨_, rfl, rfl, ((next_inj _ _).1 h).symm⟩
  | setCs l => exact (set (p := .cs) rfl id ((next_inj _ _).1 h).symm).elim .inl (.inr ∘ .inl)
  | setRxtx l => exact (set (p := .rxtx) rfl id ((next_inj _ _).1 h).symm).elim .inl (.inr ∘ .inl)
  | setRst l =>
    cases l with
    | drive b => exact (set (p := .rst) rfl id ((next_inj _ _).1 h).symm).elim .inl (.inr ∘ .inl)
    | floating =>
      exact (set (p := .rst) (m := .float .rst) rfl (by simp [microLegal]) ((next_inj _ _).1 h).symm).elim .inl
        (.inr ∘ .inl)
  | getLevel p =>
    simp only [exec] at h
    rcases execGetLevel_cases p s with ⟨hl, e⟩ | e | e <;> rw [e, next_inj] at h <;> subst h
    · exact .inl ⟨_, rfl, by cases p <;> exact hl, rfl⟩
    · exact .inr (.inl ⟨_, rfl⟩)
    · exact .inr (.inr (.inl ⟨.illegalOperand, _, nofun, nofun, rfl⟩))
  | fatal loc line =>
    exact .inr (.inr (.inr (.inr (.inr (.inr (.inr (.inr ⟨loc, line, rfl, ((next_inj _ _).1 h).symm⟩)))))))

/-! ## The step -/

theorem step_of_legal {s : State} (hp : paramsLegal s.params = true) (hc : configLegal s.params s.cfg = true) :
    step s = outsideStep s := by
  simp [step, hp, hc]

theorem step_of_no_reset {s : State} (hp : paramsLegal s.params = true)
    (hc : configLegal s.params s.cfg = true) (hr : pendingReset s = none) : step s = blockStep (moved s) := by
  rw [step_of_legal hp hc, outsideStep, hr]

theorem blockStep_idle {s : State} (hc : s.ctl = .ready) (hh : s.host = []) : blockStep s = .next s := by
  simp only [blockStep, hc, hh]

theorem blockStep_issue {s : State} {c : HostCmd} {rest : List HostCmd} (hc : s.ctl = .ready)
    (hh : s.host = c :: rest) : blockStep s = issue c { s with host := rest } := by
  simp only [blockStep, hc, hh]

theorem blockStep_exec {s : State} {m : Micro} (hc : s.ctl = .exec m) : blockStep s = .next (microStep m s) := by
  simp only [blockStep, hc]

theorem blockStep_waiting {s : State} {d : Word} (hc : s.ctl = .waiting d) :
    blockStep s = .next (waitSample d s) := by
  simp only [blockStep, hc]

theorem issue_instr {s : State} {c : HostCmd} {i : Instr} (h : decode s.params.numDio c.cmd c.arg = .instr i) :
    issue c s = exec i s := by
  simp only [issue, h]

theorem issue_fault {s : State} {c : HostCmd} {e : Cause} (h : decode s.params.numDio c.cmd c.arg = .fault e) :
    issue c s = .next (raiseFault e c.cmd s) := by
  simp only [issue, h]

/-- All a step can do when no reset comes. -/
theorem step_cases {s t : State} (hr : pendingReset s = none) (h : step s = .next t) :
    paramsLegal s.params = true ∧ configLegal s.params s.cfg = true ∧
    ((s.ctl = .ready ∧ s.host = [] ∧ t = moved s) ∨
      (∃ c rest i, s.ctl = .ready ∧ s.host = c :: rest ∧ decode s.params.numDio c.cmd c.arg = .instr i ∧
        exec i { moved s with host := rest } = .next t) ∨
      (∃ c rest e, s.ctl = .ready ∧ s.host = c :: rest ∧ decode s.params.numDio c.cmd c.arg = .fault e ∧
        t = raiseFault e c.cmd { moved s with host := rest }) ∨
      (∃ m, s.ctl = .exec m ∧ t = microStep m (moved s)) ∨
      (∃ d, s.ctl = .waiting d ∧ t = waitSample d (moved s))) := by
  cases hp : paramsLegal s.params
  · simp [step, hp] at h
  cases hc : configLegal s.params s.cfg
  · simp [step, hp, hc] at h
  refine ⟨rfl, rfl, ?_⟩
  rw [step_of_no_reset hp hc hr] at h
  cases hctl : s.ctl with
  | ready =>
    cases hh : s.host with
    | nil =>
      rw [blockStep_idle (by simp [hctl]) (by simp [hh]), next_inj] at h
      exact .inl ⟨rfl, rfl, h.symm⟩
    | cons c rest =>
      rw [blockStep_issue (by simp [hctl]) (by rw [moved_host, hh])] at h
      cases hd : decode s.params.numDio c.cmd c.arg with
      | instr i =>
        rw [issue_instr (by simpa using hd)] at h
        exact .inr (.inl ⟨c, rest, i, rfl, rfl, hd, h⟩)
      | fault e =>
        rw [issue_fault (by simpa using hd), next_inj] at h
        exact .inr (.inr (.inl ⟨c, rest, e, rfl, rfl, hd, h.symm⟩))
  | exec m =>
    rw [blockStep_exec (by simpa using hctl), next_inj] at h
    exact .inr (.inr (.inr (.inl ⟨m, rfl, h.symm⟩)))
  | waiting d =>
    rw [blockStep_waiting (by simpa using hctl), next_inj] at h
    exact .inr (.inr (.inr (.inr ⟨d, rfl, h.symm⟩)))
  | faulted => simp [blockStep, hctl] at h
  | halted => simp [blockStep, hctl] at h

/-- All a step can do when a reset comes. -/
theorem step_reset {s t : State} {r : ResetInputs} (hr : pendingReset s = some r) (h : step s = .next t) :
    paramsLegal s.params = true ∧ configLegal s.params s.cfg = true ∧ configLegal s.params r.cfg = true ∧
      t = takeReset r (moved s) := by
  cases hp : paramsLegal s.params
  · simp [step, hp] at h
  cases hc : configLegal s.params s.cfg
  · simp [step, hp, hc] at h
  rw [step_of_legal hp hc, outsideStep, hr] at h
  simp only [resetStep, moved_params] at h
  cases hl : configLegal s.params r.cfg
  · simp [hl] at h
  · simp only [hl, if_true, next_inj] at h
    exact ⟨rfl, rfl, rfl, h.symm⟩

end Sys2Proof.Machine
end

