-- ==== Sys2Proof/Laws/Frame.lean ====
section
/-! SUPPORT. What every operation leaves alone (parameters, configuration, environment, command stream, inputs), which operations can
touch `EDGE`, and how a run of several steps is put together. -/

namespace Sys2Proof.Machine

/-- Nothing of this is the block's to change within a step. -/
structure Kept (s t : State) : Prop where
  params : t.params = s.params
  cfg : t.cfg = s.cfg
  env : t.env = s.env
  host : t.host = s.host
  inputs : t.inputs = s.inputs
  drawIndex : t.drawIndex = s.drawIndex

theorem dispatch_kept (f : Frame) (line : Nat) (s : State) : Kept s (dispatch f line s) := by
  unfold dispatch; split <;> exact ⟨rfl, rfl, rfl, rfl, rfl, rfl⟩

@[simp] theorem dispatch_edge (f : Frame) (line : Nat) (s : State) : (dispatch f line s).edge = s.edge := by
  unfold dispatch; split <;> rfl

theorem probeDrive_kept (l : Level) (s : State) : Kept s (probeDrive l s) := by
  unfold probeDrive; split <;> exact ⟨rfl, rfl, rfl, rfl, rfl, rfl⟩

@[simp] theorem probeDrive_edge (l : Level) (s : State) : (probeDrive l s).edge = s.edge := by
  unfold probeDrive; split <;> rfl

theorem waitSample_kept (d : Word) (s : State) : Kept s (waitSample d s) := by
  unfold waitSample; split <;> exact ⟨rfl, rfl, rfl, rfl, rfl, rfl⟩

@[simp] theorem waitSample_edge (d : Word) (s : State) : (waitSample d s).edge = s.edge := by
  unfold waitSample; split <;> rfl

theorem sampleLine_kept (i : Nat) (s : State) : Kept s (sampleLine i s) := by
  rcases sampleLine_cases i s with ⟨_, e⟩ | ⟨_, _, e⟩ | ⟨_, _, e⟩ <;> rw [e]
  · exact ⟨rfl, rfl, rfl, rfl, rfl, rfl⟩
  · exact ⟨rfl, rfl, rfl, rfl, rfl, rfl⟩
  · obtain ⟨h1, h2, h3, h4, h5, h6⟩ :=
      dispatch_kept (.line (i + 1)) i { pinRead (.dio i) s with edge := s.edge.set i true }
    exact ⟨h1, h2, h3, h4, h5, h6⟩

/-- A micro-step of a scan completes it, or samples the next wired line. -/
theorem scan_cases (r : Nat) (s : State) :
    (nextWired s r = none ∧ microStep (.scan r) s = respondDone 0 s) ∨
    (∃ i, nextWired s r = some i ∧ microStep (.scan r) s = sampleLine i s) := by
  simp only [microStep, scanStep]
  cases h : nextWired s r with
  | none => exact .inl ⟨rfl, rfl⟩
  | some i => exact .inr ⟨i, rfl, rfl⟩

theorem microStep_kept (m : Micro) (s : State) : Kept s (microStep m s) := by
  cases m with
  | scan r =>
    rcases scan_cases r s with ⟨_, e⟩ | ⟨i, _, e⟩ <;> rw [e]
    · exact ⟨rfl, rfl, rfl, rfl, rfl, rfl⟩
    · exact sampleLine_kept i s
  | tickNow => exact ⟨rfl, rfl, rfl, rfl, rfl, rfl⟩
  | tickUntil d => exact ⟨rfl, rfl, rfl, rfl, rfl, rfl⟩
  | tickReached d => exact ⟨rfl, rfl, rfl, rfl, rfl, rfl⟩
  | drive p l => exact ⟨rfl, rfl, rfl, rfl, rfl, rfl⟩
  | float p => exact ⟨rfl, rfl, rfl, rfl, rfl, rfl⟩
  | read p => exact ⟨rfl, rfl, rfl, rfl, rfl, rfl⟩
  | exchange b =>
    rcases exchangeAndRespond_cases b s with ⟨_, e⟩ | ⟨_, e⟩ <;> simp only [microStep, e] <;>
      exact ⟨rfl, rfl, rfl, rfl, rfl, rfl⟩
  | probeAssert =>
    obtain ⟨h1, h2, h3, h4, h5, h6⟩ := probeDrive_kept s.params.csActive s
    exact ⟨h1, h2, h3, h4, h5, h6⟩
  | probeCmd => exact ⟨rfl, rfl, rfl, rfl, rfl, rfl⟩
  | probeDummy => exact ⟨rfl, rfl, rfl, rfl, rfl, rfl⟩
  | probeRelease st =>
    obtain ⟨h1, h2, h3, h4, h5, h6⟩ := probeDrive_kept (!s.params.csActive) s
    exact ⟨h1, h2, h3, h4, h5, h6⟩
  | probeDecide st =>
    simp only [microStep, probeDecide]
    split
    · exact ⟨rfl, rfl, rfl, rfl, rfl, rfl⟩
    · exact dispatch_kept .probe 0 s
  | transportFatal => exact ⟨rfl, rfl, rfl, rfl, rfl, rfl⟩

/-- Only a scan can change `EDGE` (R29). -/
theorem microStep_edge {m : Micro} {s : State} (h : ∀ r, m ≠ .scan r) : (microStep m s).edge = s.edge := by
  cases m with
  | scan r => exact absurd rfl (h r)
  | tickNow => rfl
  | tickUntil d => rfl
  | tickReached d => rfl
  | drive p l => rfl
  | float p => rfl
  | read p => rfl
  | exchange b => rcases exchangeAndRespond_cases b s with ⟨_, e⟩ | ⟨_, e⟩ <;> simp only [microStep, e] <;> rfl
  | probeAssert => simp [microStep]
  | probeCmd => rfl
  | probeDummy => rfl
  | probeRelease st => simp [microStep]
  | probeDecide st =>
    simp only [microStep, probeDecide]
    split
    · rfl
    · exact dispatch_edge .probe 0 s
  | transportFatal => rfl

/-- A command leaves what `Kept` names, and `EDGE`: only the check it starts can write `EDGE` (R29). -/
theorem exec_kept {i : Instr} {s t : State} (h : exec i s = .next t) : Kept s t ∧ t.edge = s.edge := by
  rcases exec_cases h with ⟨_, _, _, rfl⟩ | ⟨_, rfl⟩ | ⟨_, _, _, _, rfl⟩ | ⟨_, _, rfl⟩ | ⟨_, _, _, rfl⟩ | ⟨_, _, _, _, rfl⟩ |
    ⟨_, _, _, _, _, rfl⟩ | ⟨_, _, _, _, rfl⟩ | ⟨_, _, _, rfl⟩ <;> exact ⟨⟨rfl, rfl, rfl, rfl, rfl, rfl⟩, rfl⟩

/-! ## Runs -/

theorem run_succ {s t : State} (k : Nat) (h : step s = .next t) : core.run (k + 1) s = core.run k t := by
  have e : core.step s = .next t := h
  simp only [Host.Core.run, e]

theorem run_one {s t : State} (h : step s = .next t) : core.run 1 s = .next t := by
  rw [run_succ 0 h]
  rfl

/-- One more step at the end of a run. -/
theorem run_snoc {s t u : State} {k : Nat} (h : core.run k s = .next t) (h' : step t = .next u) :
    core.run (k + 1) s = .next u := by
  induction k generalizing s with
  | zero =>
    cases h
    exact run_one h'
  | succ k ih =>
    cases hs : step s with
    | next s' =>
      rw [run_succ k hs] at h
      rw [run_succ (k + 1) hs]
      exact ih h
    | fault r =>
      have e : core.step s = .fault r := hs
      simp only [Host.Core.run, e] at h
      cases h
    | refused r =>
      have e : core.step s = .refused r := hs
      simp only [Host.Core.run, e] at h
      cases h

end Sys2Proof.Machine
end

