-- ==== Sys2Proof/Tests/Slice0.lean ====
section
/-! SUPPORT. Tests. Expected results are the words of 30_encoding.md R107 and the vectors of 95_test_vectors.md, by their numbers there;
after them, for each statement with hypotheses, states and operands that meet them. -/

open Sys2Proof Sys2Proof.Machine

namespace Sys2Proof.Tests

/-! ## Well-formedness: one term for each check -/

theorem test_wf_refuses_a_line_that_does_not_exist : (Instr.getLevel (.dio 3)).wf 3 = false := by decide

theorem test_wf_refuses_a_line_without_a_pin_code : (Instr.getLevel (.dio 12)).wf 20 = false := by decide

theorem test_wf_accepts_the_last_line : (Instr.getLevel (.dio 11)).wf 12 = true := by decide

/-! ## Decoding: words of R107 and of 95_test_vectors.md 2.1, `NUM_DIO` = 3 -/

theorem test_decode_irq_disable : decodeTableWord 32 0x01000000 = some .irqDisable := by decide

theorem test_decode_irq_enable : decodeTableWord 32 0x02000000 = some .irqEnable := by decide

theorem test_decode_hret : decodeTableWord 32 0x03000000 = some .hret := by decide

theorem test_decode_tick_now_ignores_arg : decode 3 0x10000000 0xDEADBEEF = .instr .tickNow := by decide

theorem test_decode_tick_until : decodeTableWord 64 0x0000100011000000 = some (.tickUntil 0x00001000) := by decide

theorem test_decode_tick_reached : decodeTableWord 64 0xFFFFFFFF12000000 = some (.tickReached 0xFFFFFFFF) := by decide

theorem test_decode_tick_wait : decodeTableWord 64 0x0000001013000000 = some (.tickWait 0x00000010) := by decide

theorem test_decode_set_cs : decodeTableWord 32 0x20000000 = some (.setCs false) := by decide

theorem test_decode_set_rst : decodeTableWord 32 0x20100002 = some (.setRst .floating) := by decide

theorem test_decode_set_rxtx : decodeTableWord 32 0x20200001 = some (.setRxtx true) := by decide

theorem test_decode_get_level : decodeTableWord 32 0x21600000 = some (.getLevel (.dio 2)) := by decide

theorem test_decode_spi_xfer : decodeTableWord 32 0x300000FF = some (.spiXfer 0xFF) := by decide

theorem test_decode_fatal : decodeTableWord 64 0x0000ABCDF000004D = some (.fatal 0x0000ABCD 77) := by decide

theorem test_decode_illegal_opcode :
    ([0x00000000, 0x04000000, 0x22000000, 0xFF000000, 0x05000001] : List Word).map (decode 3 · 0) =
      List.replicate 5 (.fault .illegalOpcode) := by decide

theorem test_decode_reserved_bits :
    ([0x01000001, 0x11000100, 0x30000100, 0x20000100, 0x20300004, 0x21000001, 0x21000003] : List Word).map (decode 3 · 0) =
      List.replicate 7 (.fault .reservedBits) := by decide

theorem test_decode_illegal_pin_set :
    ([0x20000002, 0x20000003, 0x20100003, 0x20200002, 0x20300000, 0x20400001, 0x20F00000] : List Word).map (decode 3 · 0) =
      List.replicate 7 (.fault .illegalOperand) := by decide

theorem test_decode_illegal_get_level :
    ([0x21300000, 0x21700000] : List Word).map (decode 3 · 0) = List.replicate 2 (.fault .illegalOperand) := by decide

theorem test_pseudo_instructions :
    encodeCmd (Instr.csAssert Params.atReset) = 0x20000000 ∧ encodeCmd (Instr.csRelease Params.atReset) = 0x20000001 ∧
    encodeCmd Instr.rstFloat = 0x20100002 ∧ encodeCmd (Instr.getDio 2) = 0x21600000 := by decide

/-! ## Small states -/

/-- TC0 after reset, with an environment that makes one quiet move. -/
def tc0 : State := { State.reset with inputs := [.move {}] }

/-- TC0u: RXTX unused. -/
def tc0u : State :=
  State.boot Params.atReset { ResetInputs.atReset with cfg := { Configuration.atReset with rxtx := ⟨true, 0⟩ } } Env.atReset
    [.move {}] 0

/-- TC0f: `UNDERFLOW_POLICY` = Fault. -/
def tc0f : State := { tc0 with params := { Params.atReset with underflowPolicy := .fault } }

/-- No pin that can be driven is wired. -/
def noPins : State :=
  State.boot Params.atReset
    { ResetInputs.atReset with
      cfg := { Configuration.atReset with cs := ⟨true, 0⟩, rst := ⟨true, 0⟩, rxtx := ⟨true, 0⟩ } } Env.atReset [.move {}] 0

/-- TC1: BusProbe, no line. -/
def tc1 : State :=
  State.boot { Params.atReset with numDio := 0 }
    { ResetInputs.atReset with cfg := { Configuration.atReset with dio := [], mode := .busProbe } }
    { Env.atReset with ext := ⟨false, false, false, []⟩ } [.move {}] 0

/-- External levels of the three lines. -/
def lines (a b c : Level) : Env := { Env.atReset with ext := ⟨false, false, false, [a, b, c]⟩ }

/-- The state a step answers, if it answers one. -/
def nextOf : Result → Option State
  | .next t => some t
  | .fault _ | .refused _ => none

/-- One step from `s` with the host presenting a command and the environment making one move. -/
def issued (s : State) (cmd arg : Word) (m : EnvMove := {}) : Option State :=
  nextOf (step { s with host := [⟨cmd, arg⟩], inputs := [.move m] })

/-- One micro-step from `s` in control state `k`, the environment making one move before it. -/
def stepped (s : State) (k : Ctl) (m : EnvMove := {}) : Option State :=
  nextOf (step { s with ctl := k, inputs := [.move m] })

/-- A command's own micro-step, one move after a quiet step that decoded it. -/
def answered (s : State) (cmd arg : Word) (m : EnvMove := {}) : Option State :=
  (issued s cmd arg).bind fun t => stepped t t.ctl m

/-! ## Vectors, one command each: the step that decodes it, and its own micro-step where it has one -/

/-- IC1. -/
theorem test_irq_disable : (issued tc0 0x01000000 0).map (fun t => (t.nest, t.history)) = some (1, [.done 0]) := by decide

/-- IC2. -/
theorem test_irq_disable_overflow :
    (issued { tc0 with nest := 0xFFFFFFFF } 0x01000000 0).map (fun t => (t.ctl, t.fcause, t.finfo, t.nest)) =
      some (.faulted, 0x07, 0xFFFFFFFF, 0xFFFFFFFF) := by decide

/-- IC3. -/
theorem test_irq_enable_deferred :
    (issued { tc0 with nest := 2, env := lines true true true } 0x02000000 0).map (fun t => (t.nest, t.ctl, t.history)) =
      some (1, .ready, [.done 0]) := by decide

/-- IC5. -/
theorem test_irq_enable_underflow :
    (issued tc0f 0x02000000 0).map (fun t => (t.ctl, t.fcause, t.finfo)) = some (.faulted, 0x06, 0) := by decide

/-- IC12: the missing dispatch is checked before the balance. -/
theorem test_hret_order :
    (issued { tc0 with nest := 1 } 0x03000000 0).map (fun t => (t.ctl, t.fcause)) = some (.faulted, 0x04) := by decide

/-- IC11. -/
theorem test_hret_unbalanced :
    (issued { tc0 with nest := 1, dstack := [.line 1] } 0x03000000 0).map (fun t => (t.ctl, t.fcause, t.finfo)) =
      some (.faulted, 0x05, 1) := by decide

/-- R133: `TICK_SHIFT` = 4. -/
theorem test_tick_now_shift :
    (answered { tc0 with params := { Params.atReset with tickShift := 4 } } 0x10000000 0 { advance := 0x123456789 }).map
      (fun t => t.rdata) = some 0x12345678 := by decide

/-- R133: `CNT` = 0x100000000. -/
theorem test_tick_now_wraps :
    (answered tc0 0x10000000 0 { advance := 0x100000000 }).map (fun t => t.rdata) = some 0 := by decide

/-- V-T3. -/
theorem test_tick_until_wraps :
    (answered tc0 0x11000000 0 { advance := 0xFFFFFFFF }).map (fun t => t.rdata) = some 1 := by decide

/-- 95_test_vectors.md 2.2: n = 0x80000000, deadline one behind. -/
theorem test_tick_until_behind :
    (answered tc0 0x11000000 0x7FFFFFFF { advance := 0x80000000 }).map (fun t => t.rdata) = some 0xFFFFFFFF := by decide

/-- 95_test_vectors.md 2.2: half the range ahead counts as reached. -/
theorem test_tick_reached_half_range :
    (answered tc0 0x12000000 0x92345678 { advance := 0x12345678 }).map (fun t => t.rdata) = some 1 := by decide

/-- 95_test_vectors.md 2.2: one less does not. -/
theorem test_tick_reached_below_half_range :
    (answered tc0 0x12000000 0x92345677 { advance := 0x12345678 }).map (fun t => t.rdata) = some 0 := by decide

/-- R137: decoded, the block waits, and has taken no sample. -/
theorem test_tick_wait_decodes :
    (issued tc0 0x13000000 0 { advance := 5 }).map (fun t => (t.ctl, t.history)) = some (.waiting 0, []) := by decide

/-- V-W1, its first sample. -/
theorem test_tick_wait_waits :
    (answered tc0 0x13000000 0 { advance := 0xFFFFFFFE }).map (fun t => t.ctl) = some (.waiting 0) := by decide

/-- V-W2: already past. -/
theorem test_tick_wait_at_once :
    (answered tc0 0x13000000 1 { advance := 5 }).map (fun t => (t.ctl, t.history)) =
      some (.ready, [.done 0, .cnt 5]) := by decide

/-- 95_test_vectors.md 2.3, first row. -/
theorem test_set_cs :
    (answered tc0 0x20000000 0).map (fun t => (t.pins.cs, t.history)) =
      some (some ⟨.output, false⟩, [.done 0, .drive .cs false]) := by decide

/-- 95_test_vectors.md 2.3: SET_RST F keeps `POUT`. -/
theorem test_set_rst_floats :
    (answered { tc0 with pins := { tc0.pins with rst := some ⟨.output, true⟩ } } 0x20100002 0).map
      (fun t => (t.pins.rst, t.history)) = some (some ⟨.input, true⟩, [.done 0, .float .rst]) := by decide

/-- 95_test_vectors.md 2.3: SET_RST 1 from an input. -/
theorem test_set_rst_drives :
    (answered tc0 0x20100001 0).map (fun t => t.pins.rst) = some (some ⟨.output, true⟩) := by decide

/-- 95_test_vectors.md 2.3, TC0u: no event. -/
theorem test_set_rxtx_unused :
    (issued tc0u 0x20200001 0).map (fun t => (t.pins.rxtx, t.history)) = some (none, [.done 0]) := by decide

/-- S8, command 3: the response follows `EXT`, not `POUT`. -/
theorem test_get_level_rst :
    (answered { tc0 with pins := { tc0.pins with rst := some ⟨.input, false⟩ } } 0x21100000 0 { rst := some true }).map
      (fun t => t.history) = some [.done 1, .read (.out .rst) true] := by decide

/-- 95_test_vectors.md 2.3: GET_LEVEL DIO1 leaves `EDGE`. -/
theorem test_get_level_dio :
    (answered tc0 0x21500000 0 { dio := [false, true, false] }).map (fun t => (t.rdata, t.edge)) =
      some (1, [false, false, false]) := by decide

/-- 95_test_vectors.md 2.4. -/
theorem test_spi_xfer :
    (answered tc0 0x30000042 0 { busByte := 0x1C }).map (fun t => t.history) =
      some [.done 0x1C, .xfer 0x42 false 0x1C] := by decide

/-- 95_test_vectors.md 2.4, last row, its exchange: no response. -/
theorem test_spi_xfer_error :
    (answered tc0 0x30000042 0 { busErr := true }).map (fun t => (t.ctl, t.history)) =
      some (.exec .transportFatal, [.xfer 0x42 true 0]) := by decide

/-- 95_test_vectors.md 2.6, first row. -/
theorem test_fatal :
    (issued tc0 0xF000004D 0x0000ABCD).map (fun t => (t.flog, t.nest, t.fcause, t.finfo, stopCode t)) =
      some (⟨true, 0x0000ABCD, 77⟩, 1, 0x11, 0x0000ABCD, 2) := by decide

/-- 95_test_vectors.md 2.6, second row: saturation. -/
theorem test_fatal_saturates :
    (issued { tc0 with nest := 0xFFFFFFFF } 0xF0000000 0).map (fun t => t.nest) = some 0xFFFFFFFF := by decide

/-- IC7, the sample of line 1. -/
theorem test_scan_dispatches :
    (nextOf (step { tc0 with ctl := .exec (.scan 1), env := lines false true true })).map
      (fun t => (t.edge, t.dstack, t.history)) =
      some ([false, true, false], [.line 2], [.dispatch 1, .read (.dio 1) true]) := by decide

/-- IC13, its last sample: the update of `EDGE` stays. -/
theorem test_scan_depth :
    (nextOf (step
      { tc0 with
        params := { Params.atReset with dispatchDepthMax := 1 }, ctl := .exec (.scan 2), dstack := [.line 1]
        edge := [true, false, false], env := lines true false true })).map
      (fun t => (t.ctl, t.fcause, t.finfo, t.edge, t.dstack)) =
      some (.faulted, 0x08, 2, [true, false, true], [.line 1]) := by decide

/-- PR4, the probe's last step: CS stays asserted. -/
theorem test_probe_error_halts :
    (nextOf (step
      { tc1 with ctl := .exec .transportFatal, pins := { tc1.pins with cs := some ⟨.output, false⟩ } })).map
      (fun t => (t.ctl, t.pins.cs, t.nest, t.fcause, t.flog)) =
      some (.halted, some ⟨.output, false⟩, 1, 0x10, ⟨true, 0xFFFFFFFF, 0⟩) := by decide

/-- The presented command is the one the next step issues. -/
theorem test_with_fetch_word :
    (nextOf (step (State.reset.withFetchWord 32 0x01000000))).map (fun t => t.nest) = some 1 := by decide

/-! ## Witnesses: for each statement with hypotheses, what meets them, clause by clause -/

/-- A state and the state its step answers. -/
def steps (s t : State) : Prop := pendingReset s = none ∧ step s = .next t

theorem tc0_noReset : tc0.noReset := by
  intro m r h
  simp [tc0] at h

theorem tc1_noReset : tc1.noReset := by
  intro m r h
  simp [tc1, State.boot] at h

theorem witness_DecodeOfEncode : (Instr.getLevel (.dio 11)).wf 12 = true ∧ (Instr.getLevel (.dio 0)).wf 1 = true := by decide

theorem witness_DecodedWordIsTheEncodedWord :
    decode 12 0x21F00000 7 = .instr (.getLevel (.dio 11)) ∧ decode 0 0xF0FFFFFF 7 = .instr (.fatal 7 0xFFFFFF) := by decide

theorem witness_DecodingFollowsTheOpcodeMap :
    decode 12 0x21F00000 0 = .instr (.getLevel (.dio 11)) ∧ rowOf (.getLevel (.dio 11)) ∈ opcodeRows ∧
    matchesRow 12 (rowOf (.getLevel (.dio 11))) 0x21F00000 ∧ matchesRow 0 (rowOf (.setRst .floating)) 0x20100002 :=
  ⟨by decide, by decide, ⟨by decide, by decide, by decide⟩, ⟨by decide, by decide, by decide⟩⟩

theorem witness_ArgumentDoesNotDecide :
    decode 3 0x05000001 0 = .fault .illegalOpcode ∧
    (0x30000042 : Word).extractLsb' 24 8 ∉ ([0x11, 0x12, 0x13, 0xF0] : List (BitVec 8)) := by decide

theorem witness_ReservedOpcodeFaults :
    (0x00000000 : Word).extractLsb' 24 8 ∉ ([0x01, 0x02, 0x03, 0x10, 0x11, 0x12, 0x13, 0x20, 0x21, 0x30, 0xF0] : List (BitVec 8)) ∧
    (0xFF000000 : Word).extractLsb' 24 8 ∉
      ([0x01, 0x02, 0x03, 0x10, 0x11, 0x12, 0x13, 0x20, 0x21, 0x30, 0xF0] : List (BitVec 8)) :=
  ⟨by decide, by decide⟩

theorem witness_ReservedBitsFault :
    ((0x01800000 : Word).extractLsb' 24 8 ∈ ([0x01, 0x02, 0x03, 0x10, 0x11, 0x12, 0x13] : List (BitVec 8)) ∧
      (0x01800000 : Word).extractLsb' 0 24 ≠ 0) ∧
    ((0x20000004 : Word).extractLsb' 24 8 ∈ ([0x20, 0x21] : List (BitVec 8)) ∧ (0x20000004 : Word).extractLsb' 2 18 ≠ 0) ∧
    ((0x21000003 : Word).extractLsb' 24 8 = 0x21 ∧ (0x21000003 : Word).extractLsb' 0 2 ≠ 0) ∧
    ((0x30800000 : Word).extractLsb' 24 8 = 0x30 ∧ (0x30800000 : Word).extractLsb' 8 16 ≠ 0) :=
  ⟨by decide, by decide, by decide, by decide⟩

theorem witness_IllegalOperandFaults_set :
    ∀ x ∈ ([(0x20000002, 0, 2), (0x20100003, 1, 3), (0x20200002, 2, 2), (0x20300000, 3, 0), (0x20F00000, 15, 0)] :
        List (Word × Nat × Nat)),
      x.1.extractLsb' 24 8 = 0x20 ∧ x.2.1 = (x.1.extractLsb' 20 4).toNat ∧ x.2.2 = (x.1.extractLsb' 0 2).toNat ∧
      x.1.extractLsb' 2 18 = 0 ∧
      (x.2.1 = 0 ∧ 2 ≤ x.2.2 ∨ x.2.1 = 1 ∧ x.2.2 = 3 ∨ x.2.1 = 2 ∧ 2 ≤ x.2.2 ∨ 3 ≤ x.2.1) := by decide

theorem witness_IllegalOperandFaults_get :
    ∀ x ∈ ([(0x21300000, 3), (0x21700000, 7)] : List (Word × Nat)),
      x.1.extractLsb' 24 8 = 0x21 ∧ x.2 = (x.1.extractLsb' 20 4).toNat ∧ x.1.extractLsb' 0 20 = 0 ∧
      (x.2 = 3 ∨ 4 + tc0.params.numDio ≤ x.2) := by decide

/-- `paramsLegal`, `configLegal` and no reset, which many statements ask for. -/
theorem witness_legal :
    (paramsLegal tc0.params = true ∧ configLegal tc0.params tc0.cfg = true ∧ pendingReset tc0 = none) ∧
    (paramsLegal tc1.params = true ∧ configLegal tc1.params tc1.cfg = true ∧ pendingReset tc1 = none) := by decide

/-- With `witness_legal`: READY and a command, one that decodes and one that does not. -/
theorem witness_StepRunsTheDecodedCommand :
    tc0.ctl = .ready ∧ ({ tc0 with host := [⟨0x01000000, 0⟩] } : State).host = ⟨0x01000000, 0⟩ :: [] ∧
    decode tc0.params.numDio 0x01000000 0 = .instr .irqDisable ∧
    decode tc0.params.numDio 0x00000000 0 = .fault .illegalOpcode := by decide

theorem witness_StepTakesTheNextMicroStep :
    (∃ s : State, paramsLegal s.params = true ∧ configLegal s.params s.cfg = true ∧ pendingReset s = none ∧
      s.ctl = .exec (.scan 0)) ∧
    ∃ s : State, paramsLegal s.params = true ∧ configLegal s.params s.cfg = true ∧ pendingReset s = none ∧
      s.ctl = .waiting 1 :=
  ⟨⟨{ tc0 with ctl := .exec (.scan 0) }, by decide⟩, ⟨{ tc0 with ctl := .waiting 1 }, by decide⟩⟩

/-- With `witness_legal`. -/
theorem witness_ReadyBlockWaitsForTheHost : tc0.ctl = .ready ∧ tc0.host = [] := by decide

/-- A move that names some levels: line 0 set, line 1 left. -/
theorem witness_EnvironmentMovesOnlyItsOwnState :
    ∃ (s : State) (m : EnvMove), s.inputs = .move m :: [] ∧ m.cs = some true ∧ m.rst = none ∧
      0 < s.env.ext.dio.length ∧ m.dio[0]? = some true ∧ m.dio[1]? = none :=
  ⟨{ tc0 with inputs := [.move { cs := some true, dio := [true] }] }, { cs := some true, dio := [true] }, by decide⟩

theorem witness_StoppedBlockHasNoStep :
    ∀ c ∈ ([.faulted, .halted] : List Ctl),
      paramsLegal ({ tc0 with ctl := c } : State).params = true ∧ pendingReset { tc0 with ctl := c } = none ∧
      configLegal ({ tc0 with ctl := c } : State).params ({ tc0 with ctl := c } : State).cfg = true := by decide

/-- The hypotheses of IllegalConfigurationIsRefused. -/
def shaped (s : State) : Bool :=
  paramsLegal s.params && (pendingReset s).isNone && decide (s.cfg.dio.length = s.params.numDio) &&
    (s.cfg.cs :: s.cfg.rst :: s.cfg.rxtx :: s.cfg.dio).all fun e => e.unused || decide (e.pin < 2 ^ s.params.physPinW)

/-- A legal configuration; BusProbe with a wired line; DedicatedLine with none; two wired pins on one physical pin. -/
theorem witness_IllegalConfigurationIsRefused :
    shaped tc0 = true ∧
    (∃ s : State, shaped s = true ∧ s.cfg.mode = .busProbe ∧ ∃ e ∈ s.cfg.dio, e.unused = false) ∧
    (∃ s : State, shaped s = true ∧ s.cfg.mode = .dedicatedLine ∧ ∀ e ∈ s.cfg.dio, e.unused = true) ∧
    ∃ s : State, shaped s = true ∧ s.cfg.cs.unused = false ∧ s.cfg.rst.unused = false ∧ s.cfg.cs.pin = s.cfg.rst.pin :=
  ⟨by decide, ⟨{ tc0 with cfg := { tc0.cfg with mode := .busProbe } }, by decide⟩,
    ⟨{ tc0 with cfg := { tc0.cfg with dio := [⟨true, 0⟩, ⟨true, 0⟩, ⟨true, 0⟩] } }, by decide⟩,
    ⟨{ tc0 with cfg := { tc0.cfg with rst := ⟨false, 0⟩ } }, by decide⟩⟩

theorem witness_ResetLeavesTheResetValues :
    Configuration.atReset.cs.unused = false ∧ tc0u.cfg.rxtx.unused = true ∧ noPins.cfg.cs.unused = true ∧
    noPins.cfg.rst.unused = true := by decide

theorem witness_ResetComesInEveryControlState :
    ∃ s : State, paramsLegal s.params = true ∧ configLegal s.params s.cfg = true ∧
      s.inputs = .reset {} ResetInputs.atReset :: [] ∧ s.ctl = .waiting 1 ∧
      configLegal s.params ResetInputs.atReset.cfg = true ∧
      configLegal s.params { Configuration.atReset with mode := .busProbe } = false :=
  ⟨{ tc0 with inputs := [.reset {} ResetInputs.atReset], ctl := .waiting 1 }, by decide⟩

theorem witness_ResetMeetsTheInvariant :
    paramsLegal Params.atReset = true ∧ configLegal Params.atReset ResetInputs.atReset.cfg = true ∧
    Env.atReset.ext.dio.length = Params.atReset.numDio ∧ Env.atReset.cnt < 2 ^ Params.atReset.cntW := by decide

/-- `State.undisturbed`, for the Tick Clock, pin and SPI_XFER statements. -/
theorem witness_undisturbed : tc0.undisturbed ∧ noPins.undisturbed := by
  unfold State.undisturbed
  decide

/-- Both sides of the comparison at their boundaries, n = 0: deadlines 0 and 2^31 are reached, 1 and 2^31 - 1 are not. -/
theorem witness_tick_comparisons :
    BitVec.ofNat 32 ((moved tc0).env.cnt / 2 ^ tc0.params.tickShift) = 0 ∧
    ((0 : Word) - 0).toInt ≤ 0 ∧ ((0x80000000 : Word) - 0).toInt ≤ 0 ∧
    0 < ((1 : Word) - 0).toInt ∧ 0 < ((0x7FFFFFFF : Word) - 0).toInt :=
  ⟨by decide, by decide, by decide, by decide, by decide⟩

/-- A wait for tick 1: a move by one tick ends it, a quiet move does not. -/
theorem witness_WaitingBlockOnlySamples :
    (∃ s : State, paramsLegal s.params = true ∧ configLegal s.params s.cfg = true ∧ pendingReset s = none ∧
      s.ctl = .waiting 1 ∧ ((1 : Word) - BitVec.ofNat 32 ((moved s).env.cnt / 2 ^ s.params.tickShift)).toInt ≤ 0) ∧
    ∃ s : State, paramsLegal s.params = true ∧ configLegal s.params s.cfg = true ∧ pendingReset s = none ∧
      s.ctl = .waiting 1 ∧ 0 < ((1 : Word) - BitVec.ofNat 32 ((moved s).env.cnt / 2 ^ s.params.tickShift)).toInt :=
  ⟨⟨{ tc0 with ctl := .waiting 1, inputs := [.move { advance := 1 }] }, by decide⟩,
    ⟨{ tc0 with ctl := .waiting 1 }, by decide⟩⟩

/-- For TickWrapsAtTheTickWidth and TickDifferenceIsTheCounterIncrease. -/
theorem witness_paramsLegal : paramsLegal { Params.atReset with cntW := 36, tickShift := 4 } = true := by decide

theorem witness_ReachedTellsTheAdvance : 0 < ((0x7FFFFFFF : Word) - 0).toInt ∧ 2 ^ 31 - 1 < 2 ^ 31 := by decide

theorem witness_EveryWaitEnds :
    ∃ (s : State) (moves : Nat → EnvMove), s.Inv ∧ s.ctl = .waiting 1 ∧ Progress s.env.cnt moves ∧
      Sampling s.params s.env.cnt moves := by
  have hc : ∀ k, counterAfter 0 (fun _ => { advance := 1 }) k = k := by
    intro k
    induction k with
    | zero => rfl
    | succ k ih => exact congrArg (· + 1) ih
  refine ⟨{ tc0 with ctl := .waiting 1 }, fun _ => { advance := 1 }, ?_, rfl, fun n => ⟨n, ?_⟩, fun k => ?_⟩
  · constructor <;> decide
  · exact (hc n).ge
  · change counterAfter 0 _ (k + 2) >>> 0 - counterAfter 0 _ (k + 1) >>> 0 < 2 ^ 31
    rw [hc, hc]
    simp

/-- For the three pin-set statements, GET_LEVEL and the probe: wired pins, unused pins, an input and an output. -/
theorem witness_pins :
    (tc0.cfg.cs.unused = false ∧ tc0.cfg.rst.unused = false ∧ tc0.cfg.rxtx.unused = false) ∧
    (noPins.cfg.cs.unused = true ∧ noPins.cfg.rst.unused = true ∧ noPins.cfg.rxtx.unused = true) ∧
    tc0.pins.rst = some ⟨.input, false⟩ ∧ tc0.pins.get .rst = some ⟨.input, false⟩ ∧
    tc0.pins.get .cs = some ⟨.output, true⟩ ∧ extLevel (moved tc0).env.ext (.out .rst) = false := by decide

/-- For GET_LEVEL of a line: the last wired line, and one that exists and is unused. -/
theorem witness_GetLevelReadsInputs_lines :
    (2 < tc0.params.numDio ∧ dioWired tc0 2 = true) ∧
    (∃ s : State, 2 < s.params.numDio ∧ dioWired s 2 = false) :=
  ⟨by decide, ⟨{ tc0 with cfg := { tc0.cfg with dio := [⟨false, 3⟩, ⟨false, 4⟩, ⟨true, 0⟩] } }, by decide⟩⟩

theorem witness_SpiXferExchangesOneByte :
    (tc0.undisturbed ∧ (moved tc0).env.busErr = false) ∧
    ∃ s : State, s.undisturbed ∧ (moved s).env.busErr = true := by
  unfold State.undisturbed
  exact ⟨by decide, ⟨{ tc0 with inputs := [.move { busErr := true }] }, by decide⟩⟩

theorem witness_IrqDisableIncrementsNest :
    (0xFFFFFFFE : BitVec 32).toNat < 2 ^ 32 - 1 ∧ (0xFFFFFFFF : BitVec 32).toNat = 2 ^ 32 - 1 := by decide

theorem witness_IrqEnableDecrementsNest :
    2 ≤ (2 : BitVec 32).toNat ∧ tc0.cfg.mode = .dedicatedLine ∧ tc1.cfg.mode = .busProbe ∧ tc0.nest = 0 ∧
    tc0.params.underflowPolicy = .clamp ∧ tc0f.nest = 0 ∧ tc0f.params.underflowPolicy = .fault ∧
    ({ tc0 with nest := 1 } : State).nest = 1 ∧ ({ tc1 with nest := 1 } : State).nest = 1 := by decide

theorem witness_HretReturnsFromTheHandler :
    tc0.dstack = [] ∧
    ({ tc0 with nest := 1, dstack := [.line 1] } : State).dstack ≠ [] ∧
    ({ tc0 with dstack := [.line 3] } : State).dstack = .line 3 :: [] ∧ tc0.nest = 0 ∧
    ({ tc1 with dstack := [.probe] } : State).dstack = .probe :: [] ∧ tc1.nest = 0 := by decide

/-- Line 2 of TC0, scanned from line 0 with lines 0 and 1 unused, in the four situations. -/
theorem witness_ScanSamplesTheNextWiredLine :
    ∃ s : State, 2 < s.params.numDio ∧ dioWired s 2 = true ∧ (∀ j, j < 2 → dioWired s j = false) ∧
      s.env.ext.dio.getD 2 false = true ∧ s.edge.getD 2 false = false ∧ s.dstack.length ≠ s.params.dispatchDepthMax :=
  ⟨{ tc0 with cfg := { tc0.cfg with dio := [⟨true, 0⟩, ⟨true, 0⟩, ⟨false, 5⟩] }, env := lines false false true },
    by decide⟩

theorem witness_ScanSamplesTheNextWiredLine_other :
    (tc0.env.ext.dio.getD 2 false = tc0.edge.getD 2 false) ∧
    (tc0.env.ext.dio.getD 2 false = false ∧ ({ tc0 with edge := [false, false, true] } : State).edge.getD 2 false = true) ∧
    ({ tc0 with params := { tc0.params with dispatchDepthMax := 1 }, dstack := [.line 1] } : State).dstack.length =
      ({ tc0 with params := { tc0.params with dispatchDepthMax := 1 }, dstack := [.line 1] } : State).params.dispatchDepthMax := by
  decide

theorem witness_ScanSamplesTheNextWiredLine_none :
    (∀ j, 3 ≤ j → j < tc0.params.numDio → dioWired tc0 j = false) ∧
    ∀ j, 0 ≤ j → j < tc1.params.numDio → dioWired tc1 j = false := by
  constructor
  · intro j h1 h2
    exact absurd h2 (Nat.not_lt.2 h1)
  · intro j _ h2
    exact absurd h2 (Nat.not_lt_zero j)

theorem witness_ProbeReadsTheStatusOnce :
    (0x80 : Byte) ≠ 0 ∧ tc1.dstack.length ≠ tc1.params.dispatchDepthMax ∧
    ({ tc1 with params := { tc1.params with dispatchDepthMax := 1 }, dstack := [.probe] } : State).dstack.length = 1 := by
  decide

/-- Invariants of the small states that the whole-machine statements start from. -/
theorem tc0_inv : tc0.Inv := by constructor <;> decide

theorem tc1_inv : tc1.Inv := by constructor <;> decide

theorem deferred_inv : ({ tc0 with nest := 1, host := [⟨0x02000000, 0⟩] } : State).Inv := by constructor <;> decide

theorem scanning_inv : ({ tc0 with ctl := .exec (.scan 0), env := lines true false false } : State).Inv := by
  constructor <;> decide

theorem full_inv :
    ({ tc0 with
        params := { Params.atReset with dispatchDepthMax := 1 }, ctl := .exec (.scan 0), dstack := [.line 1]
        env := lines true false false } : State).Inv := by
  constructor <;> decide

theorem driving_inv : ({ tc0 with ctl := .exec (.drive .cs false) } : State).Inv := by constructor <;> decide

theorem floating_inv : ({ tc0 with ctl := .exec (.float .rst), pins := { tc0.pins with rst := some ⟨.output, true⟩ } } : State).Inv := by
  constructor <;> decide

theorem asserting_inv : ({ tc1 with ctl := .exec .probeAssert } : State).Inv := by constructor <;> decide

theorem probing_inv : ({ tc1 with ctl := .exec (.probeDecide 0x80) } : State).Inv := by constructor <;> decide

theorem witness_EveryStepKeepsTheInvariant : ∃ s t : State, s.Inv ∧ step s = .next t := ⟨tc0, _, tc0_inv, rfl⟩

theorem witness_NoDispatchWhileDeferred : ∃ s t : State, s.Inv ∧ s.nest ≠ 0 ∧ steps s t :=
  ⟨_, _, deferred_inv, by decide, by decide, rfl⟩

theorem witness_DispatchCarriesItsLine_scan :
    ∃ (s t : State) (new : List Event), s.Inv ∧ steps s t ∧ t.history = new ++ s.history ∧ Event.dispatch 0 ∈ new :=
  ⟨_, _, [.dispatch 0, .read (.dio 0) true], scanning_inv, ⟨by decide, rfl⟩, by decide, by decide⟩

theorem witness_DispatchCarriesItsLine_probe :
    ∃ (s t : State) (new : List Event), s.Inv ∧ steps s t ∧ t.history = new ++ s.history ∧ Event.dispatch 0 ∈ new :=
  ⟨_, _, [.dispatch 0], probing_inv, ⟨by decide, rfl⟩, by decide, by decide⟩

theorem witness_ExactlyOncePerObservedEdge :
    (∃ s t : State, s.Inv ∧ steps s t ∧ edgeLevel s 0 = false ∧ edgeLevel t 0 = true ∧ t.ctl = .ready) ∧
    ∃ s t : State, s.Inv ∧ steps s t ∧ edgeLevel s 0 = false ∧ edgeLevel t 0 = true ∧ t.ctl = .faulted :=
  ⟨⟨_, _, scanning_inv, ⟨by decide, rfl⟩, by decide, by decide, by decide⟩,
    ⟨_, _, full_inv, ⟨by decide, rfl⟩, by decide, by decide, by decide⟩⟩

theorem witness_OnlyTheScanWritesEdge : ∃ s t : State, steps s t ∧ t.edge ≠ s.edge :=
  ⟨{ tc0 with ctl := .exec (.scan 0), env := lines true false false }, _, ⟨by decide, rfl⟩, by decide⟩

theorem witness_OnlyTheseWriteNest :
    (∃ s t : State, steps s t ∧ t.nest ≠ s.nest ∧ t.ctl = .ready) ∧
    (∃ s t : State, steps s t ∧ t.nest ≠ s.nest ∧ t.ctl = .exec (.scan 0)) ∧
    ∃ s t : State, steps s t ∧ t.nest ≠ s.nest ∧ t.ctl = .halted :=
  ⟨⟨{ tc0 with host := [⟨0x01000000, 0⟩] }, _, ⟨by decide, rfl⟩, by decide, by decide⟩,
    ⟨{ tc0 with nest := 1, host := [⟨0x02000000, 0⟩] }, _, ⟨by decide, rfl⟩, by decide, by decide⟩,
    ⟨{ tc0 with host := [⟨0xF0000000, 0⟩] }, _, ⟨by decide, rfl⟩, by decide, by decide⟩⟩

/-- The premise on `s.ctl` at READY, and at a micro-step that is no check's; then the three ways a check starts or resumes. -/
theorem witness_ChecksStartOnlyAtTheFinalEnable :
    ((∀ m' : Micro, Ctl.ready = .exec m' → m'.ofCheck = false) ∧
      ∀ m' : Micro, Ctl.exec .tickNow = .exec m' → m'.ofCheck = false) ∧
    (∃ s t : State, steps s t ∧ s.ctl = .ready ∧ t.ctl = .exec (.scan 0) ∧ (Micro.scan 0).ofCheck = true) ∧
    (∃ s t : State, steps s t ∧ s.ctl = .ready ∧ t.ctl = .exec .probeAssert ∧ Micro.probeAssert.ofCheck = true) ∧
    ∃ s t : State, steps s t ∧ s.ctl = .ready ∧ t.ctl = .exec (.scan 2) ∧ (Micro.scan 2).ofCheck = true := by
  refine ⟨⟨fun m' h => ?_, fun m' h => ?_⟩, ?_, ?_, ?_⟩
  · cases h
  · cases h
    rfl
  · exact ⟨{ tc0 with nest := 1, host := [⟨0x02000000, 0⟩] }, _, ⟨by decide, rfl⟩, by decide, by decide, rfl⟩
  · exact ⟨{ tc1 with nest := 1, host := [⟨0x02000000, 0⟩] }, _, ⟨by decide, rfl⟩, by decide, by decide, rfl⟩
  · exact ⟨{ tc0 with dstack := [.line 2], host := [⟨0x03000000, 0⟩] }, _, ⟨by decide, rfl⟩, by decide, by decide, rfl⟩

/-- N = 1, and N = 2 with a command after. -/
theorem witness_OneCheckPerOutermostSection :
    (∃ (s : State) (ds es : List HostCmd), s.Inv ∧ s.noReset ∧ s.ctl = .ready ∧ s.nest = 0 ∧ ds.length = 1 ∧ es.length = 1 ∧
      (∀ c ∈ ds, c.cmd = 0x01000000) ∧ (∀ c ∈ es, c.cmd = 0x02000000) ∧ s.host = ds ++ es ++ []) ∧
    ∃ (s : State) (ds es : List HostCmd), s.Inv ∧ s.noReset ∧ s.ctl = .ready ∧ s.nest = 0 ∧ ds.length = 2 ∧ es.length = 2 ∧
      (∀ c ∈ ds, c.cmd = 0x01000000) ∧ (∀ c ∈ es, c.cmd = 0x02000000) ∧ s.host = ds ++ es ++ [⟨0x10000000, 0⟩] :=
  ⟨⟨{ tc0 with host := [⟨0x01000000, 0⟩, ⟨0x02000000, 0⟩] }, [⟨0x01000000, 0⟩], [⟨0x02000000, 0⟩],
      by constructor <;> decide, tc0_noReset, by decide⟩,
    ⟨{ tc0 with
        host := [⟨0x01000000, 0⟩, ⟨0x01000000, 1⟩, ⟨0x02000000, 0⟩, ⟨0x02000000, 1⟩, ⟨0x10000000, 0⟩] },
      [⟨0x01000000, 0⟩, ⟨0x01000000, 1⟩], [⟨0x02000000, 0⟩, ⟨0x02000000, 1⟩], by constructor <;> decide, tc0_noReset,
      by decide⟩⟩

theorem witness_CommandsAreBounded :
    (∃ s : State, s.Inv ∧ s.noReset ∧ s.ctl = .exec (.scan 0)) ∧
    (∃ s : State, s.Inv ∧ s.noReset ∧ s.ctl = .exec .probeAssert) ∧
    (∃ s : State, s.Inv ∧ s.noReset ∧ s.ctl = .exec (.exchange 0x42)) ∧
    (∃ s : State, s.Inv ∧ s.noReset ∧ s.ctl = .exec (.drive .cs false)) ∧
    ∃ s : State, s.Inv ∧ s.noReset ∧ s.ctl = .exec .transportFatal :=
  ⟨⟨_, scanning_inv, tc0_noReset, rfl⟩,
    ⟨{ tc1 with ctl := .exec .probeAssert }, by constructor <;> decide, tc1_noReset, rfl⟩,
    ⟨{ tc0 with ctl := .exec (.exchange 0x42) }, by constructor <;> decide, tc0_noReset, rfl⟩,
    ⟨_, driving_inv, tc0_noReset, rfl⟩,
    ⟨{ tc0 with ctl := .exec .transportFatal }, by constructor <;> decide, tc0_noReset, rfl⟩⟩

/-- For the statements whose only hypothesis is a step: without a reset, and with one. -/
theorem witness_ConfigurationAndEnvironmentAreReadOnly :
    (∃ s t : State, steps s t) ∧ ∃ s t : State, step s = .next t ∧ pendingReset s = some ResetInputs.atReset :=
  ⟨⟨tc0, _, ⟨by decide, rfl⟩⟩, ⟨{ tc0 with inputs := [.reset {} ResetInputs.atReset] }, _, rfl, by decide⟩⟩

theorem witness_StopRegistersAreWrittenOnce :
    (∃ s t : State, s.Inv ∧ steps s t ∧ ¬t.stopped) ∧
    (∃ s t : State, s.Inv ∧ steps s t ∧ t.ctl = .faulted) ∧
    ∃ s t : State, s.Inv ∧ steps s t ∧ t.ctl = .halted :=
  ⟨⟨_, _, tc0_inv, ⟨by decide, rfl⟩, by simp [State.stopped, tc0, State.reset, State.boot, moved, applyMove]⟩,
    ⟨_, _, full_inv, ⟨by decide, rfl⟩, by decide⟩,
    ⟨{ tc0 with ctl := .exec .transportFatal }, _, by constructor <;> decide, ⟨by decide, rfl⟩, by decide⟩⟩

theorem witness_HostIsBlockedWhileBusy :
    (∃ s t : State, steps s t ∧ s.ctl ≠ .ready ∧ s.host ≠ []) ∧ ∃ s t : State, steps s t ∧ s.ctl = .ready ∧ s.host ≠ [] :=
  ⟨⟨{ tc0 with ctl := .waiting 1, host := [⟨0x01000000, 0⟩] }, _, ⟨by decide, rfl⟩, by decide, by decide⟩,
    ⟨{ tc0 with host := [⟨0x01000000, 0⟩] }, _, ⟨by decide, rfl⟩, by decide, by decide⟩⟩

/-- A push, a pop, and neither. -/
theorem witness_DispatchStackFollowsDispatchAndReturn :
    (∃ (s t : State) (new : List Event), steps s t ∧ t.history = new ++ s.history ∧ t.dstack = .line 1 :: s.dstack ∧
      Event.dispatch 0 ∈ new) ∧
    (∃ (s t : State) (new : List Event), steps s t ∧ t.history = new ++ s.history ∧ s.dstack = .line 2 :: t.dstack ∧
      s.nest = 0 ∧ s.ctl = .ready ∧ s.host = [⟨0x03000000, 0⟩] ∧
      decode s.params.numDio 0x03000000 0 = .instr .hret) ∧
    ∃ (s t : State) (new : List Event), steps s t ∧ t.history = new ++ s.history ∧ t.dstack = s.dstack :=
  ⟨⟨{ tc0 with ctl := .exec (.scan 0), env := lines true false false }, _, [.dispatch 0, .read (.dio 0) true],
      ⟨by decide, rfl⟩, by decide, by decide, by decide⟩,
    ⟨{ tc0 with dstack := [.line 2], host := [⟨0x03000000, 0⟩] }, _, [], ⟨by decide, rfl⟩, by decide, by decide, by decide,
      by decide, by decide, by decide⟩,
    ⟨tc0, _, [], ⟨by decide, rfl⟩, by decide, by decide⟩⟩

theorem witness_ChipSelectStaysAnOutput :
    (∃ s t : State, s.Inv ∧ step s = .next t ∧ t.cfg.cs.unused = false) ∧
    ∃ s t : State, s.Inv ∧ step s = .next t ∧ t.cfg.cs.unused = true :=
  ⟨⟨tc0, _, tc0_inv, rfl, by decide⟩, ⟨noPins, _, by constructor <;> decide, rfl, by decide⟩⟩

/-- A drive, a float, and the two drives of the probe. -/
theorem witness_OnlyTheseWritePins :
    (∃ s t : State, s.Inv ∧ steps s t ∧ t.pins ≠ s.pins ∧ s.ctl = .exec (.drive .cs false)) ∧
    (∃ s t : State, s.Inv ∧ steps s t ∧ t.pins ≠ s.pins ∧ s.ctl = .exec (.float .rst)) ∧
    (∃ s t : State, s.Inv ∧ steps s t ∧ t.pins ≠ s.pins ∧ s.ctl = .exec .probeAssert) ∧
    ∃ s t : State, s.Inv ∧ steps s t ∧ t.pins ≠ s.pins ∧ s.ctl = .exec (.probeRelease 0) :=
  ⟨⟨_, _, driving_inv, ⟨by decide, rfl⟩, by decide, by decide⟩, ⟨_, _, floating_inv, ⟨by decide, rfl⟩, by decide, by decide⟩,
    ⟨_, _, asserting_inv, ⟨by decide, rfl⟩, by decide, by decide⟩,
    ⟨{ tc1 with ctl := .exec (.probeRelease 0), pins := { tc1.pins with cs := some ⟨.output, false⟩ } }, _,
      by constructor <;> decide, ⟨by decide, rfl⟩, by decide, by decide⟩⟩

theorem witness_UnusedPinsMakeNoEvent :
    (∃ (s t : State) (new : List Event), s.Inv ∧ steps s t ∧ t.history = new ++ s.history ∧ Event.drive .cs false ∈ new) ∧
    (∃ (s t : State) (new : List Event), s.Inv ∧ steps s t ∧ t.history = new ++ s.history ∧ Event.float .rst ∈ new) ∧
    ∃ (s t : State) (new : List Event), s.Inv ∧ steps s t ∧ t.history = new ++ s.history ∧ Event.read (.dio 0) true ∈ new :=
  ⟨⟨_, _, [.done 0, .drive .cs false], driving_inv, ⟨by decide, rfl⟩, by decide, by decide⟩,
    ⟨_, _, [.done 0, .float .rst], floating_inv, ⟨by decide, rfl⟩, by decide, by decide⟩,
    ⟨_, _, [.dispatch 0, .read (.dio 0) true], scanning_inv, ⟨by decide, rfl⟩, by decide, by decide⟩⟩

/-- A DONE, a DISPATCH, waiting for the host, and a step that does not end READY. -/
theorem witness_EveryCommandIsAnsweredOnce :
    (∃ (s t : State) (new : List Event), steps s t ∧ t.history = new ++ s.history ∧ t.ctl = .ready ∧ t.rkind = 0 ∧ new ≠ []) ∧
    (∃ (s t : State) (new : List Event), steps s t ∧ t.history = new ++ s.history ∧ t.ctl = .ready ∧ t.rkind = 1) ∧
    (∃ (s t : State) (new : List Event), steps s t ∧ t.history = new ++ s.history ∧ t.ctl = .ready ∧ new = []) ∧
    ∃ (s t : State) (new : List Event), steps s t ∧ t.history = new ++ s.history ∧ t.ctl ≠ .ready :=
  ⟨⟨{ tc0 with ctl := .exec (.drive .cs false) }, _, [.done 0, .drive .cs false], ⟨by decide, rfl⟩, by decide, by decide,
      by decide, by decide⟩,
    ⟨{ tc0 with ctl := .exec (.scan 0), env := lines true false false }, _, [.dispatch 0, .read (.dio 0) true],
      ⟨by decide, rfl⟩, by decide, by decide, by decide⟩,
    ⟨tc0, _, [], ⟨by decide, rfl⟩, by decide, by decide, rfl⟩,
    ⟨{ tc0 with ctl := .waiting 1 }, _, [.cnt 0], ⟨by decide, rfl⟩, by decide, by decide⟩⟩

/-- A command with a primitive decoded (TICK_NOW, TICK_WAIT), a sample that waits on, and a step that does a primitive. -/
theorem witness_DecodingIsAMicroStepOfItsOwn :
    (∃ s t : State, steps s t ∧ t.history = [] ++ s.history ∧ s.ctl = .ready ∧ t.ctl = .exec .tickNow ∧
      Micro.tickNow.ofCheck = false ∧ Micro.tickNow ≠ .transportFatal) ∧
    (∃ s t : State, steps s t ∧ t.history = [] ++ s.history ∧ s.ctl = .ready ∧ t.ctl = .waiting 1) ∧
    (∃ s t : State, steps s t ∧ t.history = [.cnt 0] ++ s.history ∧ s.ctl = .waiting 1 ∧ t.ctl = .waiting 1) ∧
    ∃ s t : State, steps s t ∧ t.history = [.done 0, .drive .cs false] ++ s.history ∧ s.ctl = .exec (.drive .cs false) :=
  ⟨⟨{ tc0 with host := [⟨0x10000000, 0⟩] }, _, ⟨by decide, rfl⟩, by decide, by decide, by decide, by decide, by decide⟩,
    ⟨{ tc0 with host := [⟨0x13000000, 1⟩] }, _, ⟨by decide, rfl⟩, by decide, by decide, by decide⟩,
    ⟨{ tc0 with ctl := .waiting 1 }, _, ⟨by decide, rfl⟩, by decide, by decide, by decide⟩,
    ⟨{ tc0 with ctl := .exec (.drive .cs false) }, _, ⟨by decide, rfl⟩, by decide, by decide⟩⟩

/-- One line, last seen high and now low: the resumed scan sees it low, and after a critical section in which it rises it is dispatched. -/
def fallAndRise : State :=
  { State.boot { Params.atReset with numDio := 1 }
      { ResetInputs.atReset with
        cfg := { Configuration.atReset with dio := [⟨false, 3⟩] }, host := [⟨0x01000000, 0⟩, ⟨0x02000000, 0⟩] }
      { Env.atReset with ext := ⟨false, false, false, [false]⟩ }
      [.move {}, .move {}, .move {}, .move { dio := [true] }, .move {}] 0 with
    edge := [true], ctl := .exec (.scan 0) }

theorem witness_ExactlyOncePerObservedEdge_run :
    ∃ (s t : State) (new : List Event), s.Inv ∧ s.noReset ∧ s.cfg.mode = .dedicatedLine ∧ edgeLevel s 0 = true ∧
      core.run 5 s = .next t ∧ t.history = new ++ s.history ∧ Event.dispatch 0 ∈ new := by
  refine ⟨fallAndRise, _, [.dispatch 0, .read (.dio 0) true, .done 0, .done 0, .read (.dio 0) false], ?_, ?_, rfl, rfl, rfl,
    rfl, by decide⟩
  · constructor <;> decide
  · intro m r h
    simp [fallAndRise, State.boot] at h

end Sys2Proof.Tests
end

section
/-! PROOFS. An illegal configuration is refused (10_state.md R26): `blockStep` refuses nothing, and each part of `configLegal` in the
words of R24 and R26. -/

namespace Sys2Proof.Machine

theorem issue_ne_refused (c : HostCmd) (s : State) (r : Refusal) : issue c s ≠ .refused r := by
  cases hd : decode s.params.numDio c.cmd c.arg with
  | instr i =>
    obtain ⟨t, ht⟩ := exec_next i s
    simp [issue_instr hd, ht]
  | fault e => simp [issue_fault hd]

/-- The block's own step refuses nothing: a refusal is of a machine or a reset that the spec gives no run. -/
theorem blockStep_ne_refused (s : State) (r : Refusal) : blockStep s ≠ .refused r := by
  cases hc : s.ctl with
  | ready =>
    cases hh : s.host with
    | nil => simp [blockStep_idle hc hh]
    | cons c rest => simp [blockStep_issue hc hh, issue_ne_refused]
  | exec m => simp [blockStep_exec hc]
  | waiting d => simp [blockStep_waiting hc]
  | faulted => simp [blockStep, hc]
  | halted => simp [blockStep, hc]

theorem step_refuses_configuration_iff {s : State} (hp : paramsLegal s.params = true) (hr : pendingReset s = none) :
    step s = .refused .illegalConfiguration ↔ configLegal s.params s.cfg = false := by
  cases hc : configLegal s.params s.cfg with
  | false => simp [step, hp, hc]
  | true => simp [step_of_no_reset hp hc hr, blockStep_ne_refused]

theorem mem_wiredPinNumbers (c : Configuration) (n : Nat) :
    n ∈ wiredPinNumbers c ↔ ∃ e ∈ c.cs :: c.rst :: c.rxtx :: c.dio, e.unused = false ∧ e.pin = n := by
  simp only [wiredPinNumbers, List.mem_filterMap, Option.ite_none_left_eq_some, Option.some.injEq, Bool.not_eq_true]

/-- R26: two wired logical pins with the same physical pin, found by their places in the map. -/
theorem not_nodup_wiredPinNumbers_iff (c : Configuration) :
    ¬(wiredPinNumbers c).Nodup ↔
      ∃ (j k : Nat) (e f : PinCfg), j < k ∧ (c.cs :: c.rst :: c.rxtx :: c.dio)[j]? = some e ∧
        (c.cs :: c.rst :: c.rxtx :: c.dio)[k]? = some f ∧ e.unused = false ∧ f.unused = false ∧ e.pin = f.pin := by
  unfold wiredPinNumbers
  generalize c.cs :: c.rst :: c.rxtx :: c.dio = l
  rw [List.Nodup, List.pairwise_filterMap, List.pairwise_iff_getElem]
  constructor
  · intro h
    push Not at h
    obtain ⟨j, k, hj, hk, hjk, n, hn, m, hm, hnm⟩ := h
    simp only [Option.ite_none_left_eq_some, Option.some.injEq, Bool.not_eq_true] at hn hm
    obtain ⟨hjw, rfl⟩ := hn
    obtain ⟨hkw, rfl⟩ := hm
    exact ⟨j, k, l[j], l[k], hjk, l.getElem?_eq_getElem hj, l.getElem?_eq_getElem hk, hjw, hkw, hnm⟩
  · rintro ⟨j, k, e, f, hjk, he, hf, hew, hfw, hpin⟩ h
    obtain ⟨hj, rfl⟩ := List.getElem?_eq_some_iff.1 he
    obtain ⟨hk, rfl⟩ := List.getElem?_eq_some_iff.1 hf
    exact h j k hj hk hjk _ (by simp [hew]) _ (by simp [hfw]) hpin

/-- R26: the mode is BusProbe exactly when no DIO line is wired; what is left is one case for each mode. -/
theorem mode_disagrees_iff (c : Configuration) :
    decide (c.mode = .busProbe) ≠ noLineWired c ↔
      c.mode = .busProbe ∧ (∃ e ∈ c.dio, e.unused = false) ∨
      c.mode = .dedicatedLine ∧ (∀ e ∈ c.dio, e.unused = true) := by
  cases hm : c.mode <;> simp [noLineWired]

/-- R26 for a map of R24's shape: one entry for each line, pin numbers of `PHYS_PIN_W` bits. -/
theorem configLegal_eq_false_iff {p : Params} {c : Configuration} (hlen : c.dio.length = p.numDio)
    (hpin : ∀ e ∈ c.cs :: c.rst :: c.rxtx :: c.dio, e.unused = false → e.pin < 2 ^ p.physPinW) :
    configLegal p c = false ↔
      decide (c.mode = .busProbe) ≠ noLineWired c ∨ ¬(wiredPinNumbers c).Nodup := by
  have hwidth : (wiredPinNumbers c).all (fun n => decide (n < 2 ^ p.physPinW)) = true := by
    refine List.all_eq_true.2 fun n hn => decide_eq_true ?_
    obtain ⟨e, he, hw, rfl⟩ := (mem_wiredPinNumbers c n).1 hn
    exact hpin e he hw
  rw [configLegal, hwidth]
  simp [hlen, imp_iff_not_or]

/-- Settles O14: a step refuses exactly an illegal configuration, and a map of R24's shape is illegal exactly by its mode or by a
shared pin. -/
theorem illegalConfigurationIsRefused : Obligations.IllegalConfigurationIsRefused := by
  intro s hp hr hlen hpin
  rw [step_refuses_configuration_iff hp hr, configLegal_eq_false_iff hlen hpin, mode_disagrees_iff,
    not_nodup_wiredPinNumbers_iff, or_assoc]

end Sys2Proof.Machine
end

section
/-! PROOFS. A stopped block has no step (20_memory.md R64): FAULTED and HALTED are the two control states in which `blockStep` gives a
fault of the model, and neither is the READY of R80. -/

namespace Sys2Proof.Machine

theorem blockStep_faulted {s : State} (hc : s.ctl = .faulted) : blockStep s = .fault .stoppedFaulted := by
  simp only [blockStep, hc]

theorem blockStep_halted {s : State} (hc : s.ctl = .halted) : blockStep s = .fault .stoppedHalted := by
  simp only [blockStep, hc]

/-- R80: a complete run ends READY. -/
theorem not_complete_of_stopped {s : State} (h : s.stopped) : ¬s.complete := by
  rintro ⟨-, hready, -⟩
  obtain hc | hc := h
  · simp [hc] at hready
  · simp [hc] at hready

/-- Settles O13: without a reset a step is the block's own after the environment's moves, which leave `CTL` as it is. -/
theorem stoppedBlockHasNoStep : Obligations.StoppedBlockHasNoStep := by
  intro s hp hcfg
  refine ⟨fun hr => ?_, not_complete_of_stopped⟩
  rw [step_of_no_reset hp hcfg hr]
  constructor
  · intro hc
    exact blockStep_faulted (by rw [moved_ctl, hc])
  · intro hc
    exact blockStep_halted (by rw [moved_ctl, hc])

end Sys2Proof.Machine
end

section
/-! PROOFS. Issuing a command that faults (30_encoding.md R103, R104): what `decode` answers in each format of R92, one equation a
format. -/

namespace Sys2Proof

/-- The opcodes of formats N and D (R96, R97): the word has no field but the opcode. -/
def fieldlessOpcodes : List (BitVec 8) := [0x01, 0x02, 0x03, 0x10, 0x11, 0x12, 0x13]

/-- The opcodes of R100: those of formats N and D, then those of P, B and F. -/
def listedOpcodes : List (BitVec 8) := fieldlessOpcodes ++ [0x20, 0x21, 0x30, 0xF0]

theorem opcodeOf_reserved {op : BitVec 8} (h : op ∉ listedOpcodes) : opcodeOf op = none := by
  simp only [listedOpcodes, fieldlessOpcodes, List.mem_append, List.mem_cons, List.not_mem_nil, or_false, not_or,
    BitVec.ofNat_eq_ofNat] at h
  simp [opcodeOf, h]

theorem requireZero_of_eq {w : Nat} {x : BitVec w} (h : x = 0) (d : Decoded) : requireZero x d = d := if_pos h

theorem requireZero_of_ne {w : Nat} {x : BitVec w} (h : x ≠ 0) (d : Decoded) :
    requireZero x d = .fault .reservedBits := if_neg h

/-- R104: it makes no difference which of two reserved fields is looked at first. -/
theorem requireZero_reservedBits {w : Nat} (x : BitVec w) :
    requireZero x (.fault .reservedBits) = .fault .reservedBits := ite_self _

section
variable {n : Nat} {cmd arg : Word}

theorem decode_reserved (hop : cmd.extractLsb' 24 8 ∉ listedOpcodes) :
    decode n cmd arg = .fault .illegalOpcode := by
  rw [decode, opcodeOf_reserved hop]

/-- Formats N and D: bits 23..0 are reserved, and the opcode alone fixes the command word and its row. -/
theorem decode_fieldless {op : BitVec 8} (hop : cmd.extractLsb' 24 8 = op) (hmem : op ∈ fieldlessOpcodes) :
    ∃ i, decode n cmd arg = requireZero (cmd.extractLsb' 0 24) (.instr i) ∧ i.wf n = true ∧
      encodeCmd i = op ++ 0#24 ∧ rowOf i = ⟨0xFFFFFFFF, op ++ 0#24⟩ := by
  rw [decode, hop]
  simp only [fieldlessOpcodes, List.mem_cons, List.not_mem_nil, or_false] at hmem
  obtain rfl | rfl | rfl | rfl | rfl | rfl | rfl := hmem
  · exact ⟨.irqDisable, rfl, rfl, rfl, rfl⟩
  · exact ⟨.irqEnable, rfl, rfl, rfl, rfl⟩
  · exact ⟨.hret, rfl, rfl, rfl, rfl⟩
  · exact ⟨.tickNow, rfl, rfl, rfl, rfl⟩
  · exact ⟨.tickUntil arg, rfl, rfl, rfl, rfl⟩
  · exact ⟨.tickReached arg, rfl, rfl, rfl, rfl⟩
  · exact ⟨.tickWait arg, rfl, rfl, rfl, rfl⟩

theorem decode_pinSet (hop : cmd.extractLsb' 24 8 = 0x20) :
    decode n cmd arg =
      requireZero (cmd.extractLsb' 2 18) (decodePinSet (cmd.extractLsb' 20 4) (cmd.extractLsb' 0 2)) := by
  rw [decode, hop]; rfl

theorem decode_getLevel (hop : cmd.extractLsb' 24 8 = 0x21) :
    decode n cmd arg =
      requireZero (cmd.extractLsb' 2 18)
        (requireZero (cmd.extractLsb' 0 2) (decodeGetLevel n (cmd.extractLsb' 20 4))) := by
  rw [decode, hop]; rfl

theorem decode_spiXfer (hop : cmd.extractLsb' 24 8 = 0x30) :
    decode n cmd arg = requireZero (cmd.extractLsb' 8 16) (.instr (.spiXfer (cmd.extractLsb' 0 8))) := by
  rw [decode, hop]; rfl

theorem decode_fatal (hop : cmd.extractLsb' 24 8 = 0xF0) :
    decode n cmd arg = .instr (.fatal arg (cmd.extractLsb' 0 24)) := by
  rw [decode, hop]; rfl

end

open Machine

/-- Settles O5: a reserved opcode decodes to ILLEGAL_OPCODE, and the fault writes what R233 says. -/
theorem reservedOpcodeFaults : Obligations.ReservedOpcodeFaults :=
  fun _ _ hop => issue_fault (decode_reserved hop)

/-- Settles O6: in each format the reserved field stands before every other check of R105. -/
theorem reservedBitsFault : Obligations.ReservedBitsFault := by
  rintro s c _ rfl h
  refine issue_fault (e := .reservedBits) ?_
  obtain ⟨hop, hne⟩ | ⟨hop, hne⟩ | ⟨hop, hne⟩ | ⟨hop, hne⟩ := h
  · obtain ⟨i, hd, -⟩ := decode_fieldless rfl hop
    rw [hd, requireZero_of_ne hne]
  · simp only [List.mem_cons, List.not_mem_nil, or_false] at hop
    obtain hop | hop := hop
    · rw [decode_pinSet hop, requireZero_of_ne hne]
    · rw [decode_getLevel hop, requireZero_of_ne hne]
  · rw [decode_getLevel hop, requireZero_of_ne hne, requireZero_reservedBits]
  · rw [decode_spiXfer hop, requireZero_of_ne hne]

end Sys2Proof
end

section
/-! PROOFS. `ARG` supplies operands only (30_encoding.md R93, R94). -/

namespace Sys2Proof

/-- The opcodes whose command takes an operand from `ARG` (R93): those of formats D and F. -/
def Opcode.readsArg : Opcode → Bool
  | .tickUntil | .tickReached | .tickWait | .fatal => true
  | .irqDisable | .irqEnable | .hret | .tickNow | .pinSet | .getLevel | .spiXfer => false

theorem op_of_readsArg {op : BitVec 8} {o : Opcode} (h : opcodeOf op = some o) (ho : o.readsArg = true) :
    op = 0x11 ∨ op = 0x12 ∨ op = 0x13 ∨ op = 0xF0 := by
  cases o with
  | tickUntil => exact .inl (by simpa using opcodeOf_inv h)
  | tickReached => exact .inr (.inl (by simpa using opcodeOf_inv h))
  | tickWait => exact .inr (.inr (.inl (by simpa using opcodeOf_inv h)))
  | fatal => exact .inr (.inr (.inr (by simpa using opcodeOf_inv h)))
  | irqDisable | irqEnable | hret | tickNow | pinSet | getLevel | spiXfer => cases ho

/-- R94. -/
theorem decode_arg_irrelevant {n : Nat} {cmd : Word} (a b : Word)
    (h : ∀ o, opcodeOf (cmd.extractLsb' 24 8) = some o → o.readsArg = false) :
    decode n cmd a = decode n cmd b := by
  unfold decode
  cases ho : opcodeOf (cmd.extractLsb' 24 8) with
  | none => rfl
  | some o =>
    have hr := h o ho
    cases o with
    | tickUntil | tickReached | tickWait | fatal => cases hr
    | irqDisable | irqEnable | hret | tickNow | pinSet | getLevel | spiXfer => rfl

/-- R106: in format D the reserved bits decide the fault, and format F has none. -/
theorem decode_fault_arg_irrelevant (n : Nat) (cmd a b : Word) (c : Cause) :
    decode n cmd a = .fault c ↔ decode n cmd b = .fault c := by
  unfold decode
  cases opcodeOf (cmd.extractLsb' 24 8) with
  | none => rfl
  | some o =>
    cases o with
    | tickUntil | tickReached | tickWait => exact requireZero_fault_congr (fun _ => by simp) c
    | fatal => simp
    | irqDisable | irqEnable | hret | tickNow | pinSet | getLevel | spiXfer => rfl

/-- Settles O4: no check of the decoder reads `ARG`, and only formats D and F put it into the command. -/
theorem argumentDoesNotDecide : Obligations.ArgumentDoesNotDecide := by
  refine fun n cmd a b => ⟨decode_fault_arg_irrelevant n cmd a b, ?_⟩
  rintro _ rfl h11 h12 h13 hF0
  refine decode_arg_irrelevant a b fun o ho => Bool.eq_false_iff.2 fun hr => ?_
  obtain h | h | h | h := op_of_readsArg ho hr
  · exact h11 h
  · exact h12 h
  · exact h13 h
  · exact hF0 h

end Sys2Proof
end

section
/-! PROOFS. Decoding follows the opcode map (30_encoding.md R100). From a decoded command to its row, through the word that the
command encodes to; from a row to a command, through the fields that the row fixes; a word has at most one row because it
decodes to at most one command. -/

namespace Sys2Proof

/-! ## From a decoded command to its word and its row -/

theorem mem_listedOpcodes {op : BitVec 8} :
    op ∈ listedOpcodes ↔ op ∈ fieldlessOpcodes ∨ op = 0x20 ∨ op = 0x21 ∨ op = 0x30 ∨ op = 0xF0 := by
  simp only [listedOpcodes, List.mem_append, List.mem_cons, List.not_mem_nil, or_false]

/-- A format P word with its reserved bits zero, from its fields. -/
theorem formatP_fields {cmd : Word} {op : BitVec 8} (hop : cmd.extractLsb' 24 8 = op) (hres : cmd.extractLsb' 2 18 = 0) :
    formatP op (cmd.extractLsb' 20 4) (cmd.extractLsb' 0 2) = cmd := by
  subst hop
  conv_rhs => rw [word_of_formatP cmd, hres]
  rfl

/-- R105: each branch of the operand check of opcode 0x20 that answers a command tests for the codes of that command. -/
theorem decodePinSet_inv {n : Nat} {pin : BitVec 4} {lvl : BitVec 2} {i : Instr} (h : decodePinSet pin lvl = .instr i) :
    i.wf n = true ∧ encodeCmd i = formatP 0x20 pin lvl := by
  unfold decodePinSet at h
  split_ifs at h with hc hc hc hc hc hc hc <;> cases h <;> obtain ⟨rfl, rfl⟩ := hc <;> exact ⟨rfl, rfl⟩

theorem decodeGetLevel_inv {n : Nat} {pin : BitVec 4} {i : Instr} (h : decodeGetLevel n pin = .instr i) :
    i.wf n = true ∧ encodeCmd i = formatP 0x21 pin 0 := by
  unfold decodeGetLevel at h
  split at h
  next p hp =>
    cases h
    obtain ⟨rfl, hwf⟩ := pinOfCode_inv hp
    exact ⟨hwf, rfl⟩
  next => cases h

/-- A word that decodes is the word of the command it decodes to, and that command is well-formed (R92, R105). -/
theorem decode_inv {n : Nat} {cmd arg : Word} {i : Instr} (h : decode n cmd arg = .instr i) :
    i.wf n = true ∧ encodeCmd i = cmd := by
  by_cases hlisted : cmd.extractLsb' 24 8 ∈ listedOpcodes
  case neg => simp [decode_reserved hlisted] at h
  obtain hop | hop | hop | hop | hop := mem_listedOpcodes.1 hlisted
  · obtain ⟨j, hd, hwf, henc, -⟩ := decode_fieldless (n := n) (arg := arg) rfl hop
    obtain ⟨hlow, hj⟩ := requireZero_instr (hd ▸ h)
    cases hj
    refine ⟨hwf, henc.trans ?_⟩
    conv_rhs => rw [word_of_op_low cmd, hlow]
    rfl
  · obtain ⟨hres, h⟩ := requireZero_instr (decode_pinSet hop ▸ h)
    obtain ⟨hwf, henc⟩ := decodePinSet_inv (n := n) h
    exact ⟨hwf, henc.trans (formatP_fields hop hres)⟩
  · obtain ⟨hres, h⟩ := requireZero_instr (decode_getLevel hop ▸ h)
    obtain ⟨hlvl, h⟩ := requireZero_instr h
    obtain ⟨hwf, henc⟩ := decodeGetLevel_inv h
    exact ⟨hwf, henc.trans (hlvl ▸ formatP_fields hop hres)⟩
  · obtain ⟨hres, h⟩ := requireZero_instr (decode_spiXfer hop ▸ h)
    cases h
    refine ⟨rfl, ?_⟩
    conv_rhs => rw [word_of_formatB cmd, hop, hres]
    rfl
  · cases (decode_fatal hop).symm.trans h
    refine ⟨rfl, ?_⟩
    conv_rhs => rw [word_of_op_low cmd, hop]
    rfl

/-- Every constructor's law of `Laws.TableRow`. -/
theorem tableRow_of_instr (i : Instr) : Laws.TableRow.Statement i := by
  cases i with
  | irqDisable => exact Laws.TableRow.irqDisable
  | irqEnable => exact Laws.TableRow.irqEnable
  | hret => exact Laws.TableRow.hret
  | tickNow => exact Laws.TableRow.tickNow
  | tickUntil d => exact Laws.TableRow.tickUntil d
  | tickReached d => exact Laws.TableRow.tickReached d
  | tickWait d => exact Laws.TableRow.tickWait d
  | setCs l => exact Laws.TableRow.setCs l
  | setRst l => exact Laws.TableRow.setRst l
  | setRxtx l => exact Laws.TableRow.setRxtx l
  | getLevel p => exact Laws.TableRow.getLevel p
  | spiXfer b => exact Laws.TableRow.spiXfer b
  | fatal loc line => exact Laws.TableRow.fatal loc line

theorem pin_of_formatP (op : BitVec 8) (pin : BitVec 4) (lvl : BitVec 2) :
    (formatP op pin lvl).extractLsb' 20 4 = pin := by
  rw [formatP, BitVec.extractLsb'_append_eq_of_le (by omega), BitVec.extractLsb'_append_eq_of_le (by omega),
    BitVec.extractLsb'_append_eq_of_add_le (by omega)]
  simp

theorem lvl_of_formatP (op : BitVec 8) (pin : BitVec 4) (lvl : BitVec 2) :
    (formatP op pin lvl).extractLsb' 0 2 = lvl := by
  rw [formatP, BitVec.extractLsb'_append_eq_of_add_le (by omega)]
  simp

/-- R102: no level of SET_RST has the code 3. -/
theorem rstLevelCode_ne (l : RstLevel) : rstLevelCode l ≠ 3 := by
  cases l with
  | drive b => cases b <;> decide
  | floating => decide

/-- R101: the pin codes of well-formed pins are the legal ones. -/
theorem pinCode_legal {n : Nat} {p : Pin} (h : p.wf n = true) :
    (pinCode p).toNat ≤ 2 ∨ 4 ≤ (pinCode p).toNat ∧ (pinCode p).toNat < 4 + n := by
  cases p with
  | out q => cases q <;> simp [pinCode]
  | dio i =>
    simp only [Pin.wf, Bool.and_eq_true, decide_eq_true_eq] at h
    simp only [pinCode, BitVec.toNat_ofNat]
    omega

/-- The word of a well-formed command meets the extra constraint of its row; only SET_RST and GET_LEVEL have one. -/
theorem rowConstraint_encodeCmd {n : Nat} {i : Instr} (h : i.wf n = true) : rowConstraint n (rowOf i) (encodeCmd i) := by
  cases i with
  | setRst l => exact ⟨fun _ => lvl_of_formatP .. ▸ rstLevelCode_ne l, by simp [rowOf]⟩
  | getLevel p => exact ⟨by simp [rowOf], fun _ => pin_of_formatP .. ▸ pinCode_legal h⟩
  | irqDisable | irqEnable | hret | tickNow | tickUntil | tickReached | tickWait | setCs | setRxtx | spiXfer | fatal =>
    simp [rowConstraint, rowOf]

theorem matchesRow_of_decode {n : Nat} {cmd arg : Word} {i : Instr} (h : decode n cmd arg = .instr i) :
    rowOf i ∈ opcodeRows ∧ matchesRow n (rowOf i) cmd := by
  obtain ⟨hwf, rfl⟩ := decode_inv h
  obtain ⟨hfix, hmem⟩ := tableRow_of_instr i n hwf
  exact ⟨hmem, hfix, rowConstraint_encodeCmd hwf⟩

/-! ## From a row to a command -/

theorem decodePinSet_cs : ∀ lvl : BitVec 2, lvl &&& 2 = 0 → ∃ l, decodePinSet 0 lvl = .instr (.setCs l) := by decide

theorem decodePinSet_rxtx : ∀ lvl : BitVec 2, lvl &&& 2 = 0 → ∃ l, decodePinSet 2 lvl = .instr (.setRxtx l) := by decide

theorem decodePinSet_rst {lvl : BitVec 2} (h : lvl ≠ 3) : ∃ l, decodePinSet 1 lvl = .instr (.setRst l) := by
  have hlvl : lvl = 0 ∨ lvl = 1 ∨ lvl = 2 := by
    revert lvl
    decide
  obtain rfl | rfl | rfl := hlvl
  · exact ⟨.drive false, rfl⟩
  · exact ⟨.drive true, rfl⟩
  · exact ⟨.floating, rfl⟩

theorem pinOfCode_legal {n : Nat} {c : BitVec 4} (h : c.toNat ≤ 2 ∨ 4 ≤ c.toNat ∧ c.toNat < 4 + n) :
    ∃ p, pinOfCode n c = some p := by
  obtain h | h := h
  · have hc : c = 0 ∨ c = 1 ∨ c = 2 := by
      revert c
      decide
    obtain rfl | rfl | rfl := hc
    · exact ⟨.out .cs, rfl⟩
    · exact ⟨.out .rst, rfl⟩
    · exact ⟨.out .rxtx, rfl⟩
  · refine ⟨.dio (c.toNat - 4), ?_⟩
    have hne : ∀ k : BitVec 4, k.toNat < 4 → c ≠ k := by
      rintro k hk rfl
      omega
    rw [pinOfCode, if_neg (hne 0 (by decide)), if_neg (hne 1 (by decide)), if_neg (hne 2 (by decide)), if_pos h]

/-- The rows of R100, those of formats N and D by their opcodes. -/
theorem opcodeRows_eq :
    opcodeRows = (fieldlessOpcodes.map fun op => ⟨0xFFFFFFFF, op ++ 0#24⟩) ++
      [⟨0xFFFFFFFE, 0x20000000⟩, ⟨0xFFFFFFFC, 0x20100000⟩, ⟨0xFFFFFFFE, 0x20200000⟩, ⟨0xFF0FFFFF, 0x21000000⟩,
        ⟨0xFFFFFF00, 0x30000000⟩, ⟨0xFF000000, 0xF0000000⟩] := rfl

section
variable {n : Nat} {cmd arg : Word}

theorem decode_of_fieldless_row {op : BitVec 8} (hmem : op ∈ fieldlessOpcodes) (h : cmd = op ++ 0#24) :
    ∃ i, decode n cmd arg = .instr i ∧ rowOf i = ⟨0xFFFFFFFF, op ++ 0#24⟩ := by
  have hop : cmd.extractLsb' 24 8 = op := h ▸ op_of_append op 0
  have hlow : cmd.extractLsb' 0 24 = 0 := h ▸ low_of_append op 0
  obtain ⟨i, hd, -, -, hrow⟩ := decode_fieldless (n := n) (arg := arg) hop hmem
  exact ⟨i, by rw [hd, requireZero_of_eq hlow], hrow⟩

theorem decode_of_pinSet_fields {pin : BitVec 4} (hop : cmd.extractLsb' 24 8 = 0x20) (hpin : cmd.extractLsb' 20 4 = pin)
    (hres : cmd.extractLsb' 2 18 = 0) : decode n cmd arg = decodePinSet pin (cmd.extractLsb' 0 2) := by
  rw [decode_pinSet hop, requireZero_of_eq hres, hpin]

theorem decode_of_getLevel_fields {p : Pin} (hop : cmd.extractLsb' 24 8 = 0x21) (hres : cmd.extractLsb' 2 18 = 0)
    (hlvl : cmd.extractLsb' 0 2 = 0) (hpin : pinOfCode n (cmd.extractLsb' 20 4) = some p) :
    decode n cmd arg = .instr (.getLevel p) := by
  rw [decode_getLevel hop, requireZero_of_eq hres, requireZero_of_eq hlvl, decodeGetLevel, hpin]

/-- R100: a word that matches a row decodes to a command of that row. -/
theorem decode_of_matchesRow {r : OpcodeRow} (hr : r ∈ opcodeRows) (h : matchesRow n r cmd) :
    ∃ i, decode n cmd arg = .instr i ∧ rowOf i = r := by
  obtain ⟨hrow, hrst, hget⟩ := h
  have hfix := fixed_field_of_row hrow
  rw [opcodeRows_eq, List.mem_append, List.mem_map] at hr
  obtain ⟨op, hmem, rfl⟩ | hr := hr
  · exact decode_of_fieldless_row hmem ((BitVec.and_allOnes (x := cmd)).symm.trans hrow)
  simp only [List.mem_cons, List.not_mem_nil, or_false] at hr
  obtain rfl | rfl | rfl | rfl | rfl | rfl := hr
  · obtain ⟨l, hl⟩ := decodePinSet_cs _ (field_of_row hrow 0 2)
    exact ⟨.setCs l,
      (decode_of_pinSet_fields (hfix 24 8 (by decide)) (hfix 20 4 (by decide)) (hfix 2 18 (by decide))).trans hl, rfl⟩
  · obtain ⟨l, hl⟩ := decodePinSet_rst (hrst rfl)
    exact ⟨.setRst l,
      (decode_of_pinSet_fields (hfix 24 8 (by decide)) (hfix 20 4 (by decide)) (hfix 2 18 (by decide))).trans hl, rfl⟩
  · obtain ⟨l, hl⟩ := decodePinSet_rxtx _ (field_of_row hrow 0 2)
    exact ⟨.setRxtx l,
      (decode_of_pinSet_fields (hfix 24 8 (by decide)) (hfix 20 4 (by decide)) (hfix 2 18 (by decide))).trans hl, rfl⟩
  · obtain ⟨p, hp⟩ := pinOfCode_legal (hget rfl)
    exact ⟨.getLevel p,
      decode_of_getLevel_fields (hfix 24 8 (by decide)) (hfix 2 18 (by decide)) (hfix 0 2 (by decide)) hp, rfl⟩
  · refine ⟨.spiXfer (cmd.extractLsb' 0 8), ?_, rfl⟩
    rw [decode_spiXfer (hfix 24 8 (by decide)), requireZero_of_eq (hfix 8 16 (by decide))]
  · exact ⟨.fatal arg (cmd.extractLsb' 0 24), decode_fatal (hfix 24 8 (by decide)), rfl⟩

end

/-- R100: both rows are the row of the one command that the word decodes to. -/
theorem matchesRow_unique {n : Nat} {cmd : Word} {r r' : OpcodeRow} (hr : r ∈ opcodeRows) (hr' : r' ∈ opcodeRows)
    (h : matchesRow n r cmd) (h' : matchesRow n r' cmd) : r = r' := by
  obtain ⟨i, hd, rfl⟩ := decode_of_matchesRow (arg := 0) hr h
  obtain ⟨i', hd', rfl⟩ := decode_of_matchesRow (arg := 0) hr' h'
  cases hd.symm.trans hd'
  rfl

/-- Settles O3: the row of a decoded command, a command for each row that a word matches, and one row at most. -/
theorem decodingFollowsTheOpcodeMap : Obligations.DecodingFollowsTheOpcodeMap :=
  fun _ _ _ _ =>
    ⟨fun _ => matchesRow_of_decode, fun _ => decode_of_matchesRow, fun _ hr _ hr' => matchesRow_unique hr hr'⟩

end Sys2Proof
end

section
/-! PROOFS. The tick clock (40_tick_clock.md R131, R136): a legal counter holds the tick's bits and all below them, so the counter's
own wrap leaves the tick as it is. -/

namespace Sys2Proof.Machine

/-- R131: bits `TICK_SHIFT`+31..`TICK_SHIFT` of a counter that has them are those of the unbounded count. -/
theorem tick_mod_counter {p : Params} (h : 32 + p.tickShift ≤ p.cntW) (c : Nat) :
    tick p (c % 2 ^ p.cntW) = tick p c := by
  have hwidth : 2 ^ p.cntW = 2 ^ p.tickShift * 2 ^ (p.cntW - p.tickShift) := by
    rw [← Nat.pow_add, Nat.add_sub_cancel' (by omega)]
  have hdvd : 2 ^ 32 ∣ 2 ^ (p.cntW - p.tickShift) := Nat.pow_dvd_pow 2 (by omega)
  apply BitVec.eq_of_toNat_eq
  rw [tick_eq, tick_eq, BitVec.toNat_ofNat, BitVec.toNat_ofNat, hwidth, Nat.mod_mul_right_div_self,
    Nat.mod_mod_of_dvd _ hdvd]

theorem width_of_paramsLegal {p : Params} (h : paramsLegal p = true) : 32 + p.tickShift ≤ p.cntW := by
  simp only [paramsLegal, Bool.and_eq_true, decide_eq_true_eq] at h
  obtain ⟨⟨hwidth, -⟩, -⟩ := h
  exact hwidth

theorem step_of_illegal {s : State} (h : paramsLegal s.params = false) : step s = .refused .illegalParameters := by
  rw [step, if_pos h]

/-- Settles O24: the counter's wrap does not reach the tick, and a counter too narrow for that has illegal parameters. -/
theorem tickWrapsAtTheTickWidth : Obligations.TickWrapsAtTheTickWidth := by
  constructor
  · intro p c k hp
    rw [tick_mod_counter (width_of_paramsLegal hp), tick_eq, BitVec.toNat_ofNat]
  · intro s hnarrow
    refine step_of_illegal (Bool.eq_false_iff.2 fun hp => ?_)
    exact absurd (width_of_paramsLegal hp) (Nat.not_le.2 hnarrow)

/-- Settles O25: with the counter's wrap gone from the later sample, the two ticks are of counts in order. -/
theorem tickDifferenceIsTheCounterIncrease : Obligations.TickDifferenceIsTheCounterIncrease := by
  intro p c k hp
  have hle : c / 2 ^ p.tickShift ≤ (c + k) / 2 ^ p.tickShift := Nat.div_le_div_right (Nat.le_add_right c k)
  rw [tick_mod_counter (width_of_paramsLegal hp), tick_eq, tick_eq, BitVec.sub_eq_iff_eq_add, ← BitVec.ofNat_add,
    Nat.sub_add_cancel hle]

end Sys2Proof.Machine
end

section
/-! PROOFS. The commands of the Interrupt Coordinator (43_interrupt_coordinator.md R184 to R186, R196, R197): one equation for each
branch of their meanings. -/

namespace Sys2Proof.Machine

theorem execIrqDisable_below {s : State} (h : s.nest.toNat < 2 ^ 32 - 1) :
    execIrqDisable s = .next (respondDone 0 { s with nest := s.nest + 1 }) := by
  have hne : s.nest ≠ BitVec.allOnes 32 := fun e => absurd ((nest_eq_top s.nest).1 e) (Nat.ne_of_lt h)
  rw [execIrqDisable, if_neg hne]

theorem execIrqDisable_top {s : State} (h : s.nest.toNat = 2 ^ 32 - 1) :
    execIrqDisable s = .next (raiseFault .nestOverflow 0xFFFFFFFF s) := by
  have htop : s.nest = BitVec.allOnes 32 := (nest_eq_top s.nest).2 h
  have hword : s.nest = 0xFFFFFFFF := htop.trans (by decide)
  rw [execIrqDisable, if_pos htop, hword]

theorem execIrqEnable_zero {s : State} (h : s.nest = 0) : execIrqEnable s = .next (unmatchedEnable s) := by
  rw [execIrqEnable, if_pos h]

theorem execIrqEnable_one {s : State} (h : s.nest = 1) :
    execIrqEnable s = .next (startCheck { s with nest := 0 }) := by
  simp [execIrqEnable, h]

theorem execIrqEnable_above {s : State} (h : 2 ≤ s.nest.toNat) :
    execIrqEnable s = .next (respondDone 0 { s with nest := s.nest - 1 }) := by
  have h0 : s.nest ≠ 0 := fun e => by simp [e] at h
  have h1 : s.nest ≠ 1 := fun e => by simp [e] at h
  rw [execIrqEnable, if_neg h0, if_neg h1]

theorem execHret_empty {s : State} (h : s.dstack = []) : execHret s = .next (raiseFault .hretNoDispatch 0 s) := by
  simp only [execHret, h]

theorem execHret_unbalanced {s : State} (h : s.dstack ≠ []) (hn : s.nest ≠ 0) :
    execHret s = .next (raiseFault .hretUnbalanced s.nest s) := by
  obtain ⟨f, rest, hd⟩ := List.exists_cons_of_ne_nil h
  simp only [execHret, hd, if_neg hn]

theorem execHret_pop {s : State} {f : Frame} {rest : List Frame} (h : s.dstack = f :: rest) (hn : s.nest = 0) :
    execHret s = .next (resumeFrame f { s with dstack := rest }) := by
  simp only [execHret, h, if_pos hn]

/-- Settles O35: the two branches are below the top of the range and at it. -/
theorem irqDisableIncrementsNest : Obligations.IrqDisableIncrementsNest :=
  ⟨fun _ _ => rfl, fun _ => ⟨execIrqDisable_below, execIrqDisable_top⟩⟩

/-- Settles O36: the branches of `NEST`, then the mode at 1 and the policy at 0. -/
theorem irqEnableDecrementsNest : Obligations.IrqEnableDecrementsNest := by
  refine ⟨fun _ _ => rfl, fun s => ⟨execIrqEnable_above, fun h hm => ?_, fun h hm => ?_, fun h hp => ?_, fun h hp => ?_⟩⟩
  · exact (execIrqEnable_one h).trans (by simp only [startCheck, hm]; rfl)
  · exact (execIrqEnable_one h).trans (by simp only [startCheck, hm]; rfl)
  · exact (execIrqEnable_zero h).trans (by simp only [unmatchedEnable, hp]; rfl)
  · exact (execIrqEnable_zero h).trans (by simp only [unmatchedEnable, hp]; rfl)

/-- Settles O37: HRET_NO_DISPATCH before HRET_UNBALANCED (R235), then the two frames. -/
theorem hretReturnsFromTheHandler : Obligations.HretReturnsFromTheHandler :=
  ⟨fun _ _ => rfl, fun _ => ⟨execHret_empty, execHret_unbalanced, fun _ _ => execHret_pop, fun _ => execHret_pop⟩⟩

end Sys2Proof.Machine
end

section
/-! PROOFS. Dispatch entry and the micro-step of a scan (43_interrupt_coordinator.md R190 to R192). -/

namespace Sys2Proof.Machine

/-- Settles O39: the two branches of dispatch entry. -/
theorem dispatchPushesAFrameAndResponds : Obligations.DispatchPushesAFrameAndResponds :=
  fun _ _ _ => ⟨dispatch_eq_respond, dispatch_eq_fault⟩

theorem microStep_scan_done {s : State} {r : Nat} (h : nextWired s r = none) :
    microStep (.scan r) s = respondDone 0 s := by
  simp only [microStep, scanStep, h]

theorem microStep_scan_sample {s : State} {r i : Nat} (h : nextWired s r = some i) :
    microStep (.scan r) s = sampleLine i s := by
  simp only [microStep, scanStep, h]

theorem pinRead_of_level {p : Pin} {s : State} {l : Level} (h : extLevel s.env.ext p = l) :
    pinRead p s = record (.read p l) s := by
  rw [pinRead, h]

/-- R190: a rise with a free entry in `DSTACK`. -/
theorem sampleLine_rise_respond {i : Nat} {s : State} (hl : extLevel s.env.ext (.dio i) = true)
    (he : edgeLevel s i = false) (hd : s.dstack.length ≠ s.params.dispatchDepthMax) :
    sampleLine i s =
      respondDispatch i
        { record (.read (.dio i) true) s with edge := s.edge.set i true, dstack := .line (i + 1) :: s.dstack } := by
  rw [sampleLine_rise hl he, pinRead_of_level hl]
  exact dispatch_eq_respond hd

/-- R192: a rise with `DSTACK` full. -/
theorem sampleLine_rise_fault {i : Nat} {s : State} (hl : extLevel s.env.ext (.dio i) = true)
    (he : edgeLevel s i = false) (hd : s.dstack.length = s.params.dispatchDepthMax) :
    sampleLine i s =
      raiseFault .dispatchDepth (lineWord i) { record (.read (.dio i) true) s with edge := s.edge.set i true } := by
  rw [sampleLine_rise hl he, pinRead_of_level hl]
  exact dispatch_eq_fault hd

/-- Settles O38: past the last wired line, or what the sample of the next one finds. -/
theorem scanSamplesTheNextWiredLine : Obligations.ScanSamplesTheNextWiredLine := by
  refine ⟨fun s r hnone => microStep_scan_done (nextWired_eq_none.2 hnone), ?_⟩
  rintro s r i _ hr hi hw hbetween rfl
  rw [microStep_scan_sample (nextWired_eq_some.2 ⟨hr, hi, hw, hbetween⟩)]
  refine ⟨sampleLine_same, fun hl he => ?_, sampleLine_rise_respond, sampleLine_rise_fault⟩
  rw [sampleLine_fall hl he, pinRead_of_level (s := s) (p := .dio i) hl]
  rfl

end Sys2Proof.Machine
end

section
/-! PROOFS. When a check starts (43_interrupt_coordinator.md R182): within a check each micro-step leads to one of the same check, and
out of a check only IRQ_ENABLE and HRET lead into one. -/

namespace Sys2Proof.Machine

/-- The dispatch mode whose check a micro-step belongs to (R182), if it is one of a check. -/
def Micro.checkMode : Micro → Option DispatchMode
  | .scan _ => some .dedicatedLine
  | .probeAssert | .probeCmd | .probeDummy | .probeRelease _ | .probeDecide _ => some .busProbe
  | .tickNow | .tickUntil _ | .tickReached _ | .drive _ _ | .float _ | .read _ | .exchange _ | .transportFatal => none

theorem Micro.ofCheck_eq (m : Micro) : m.ofCheck = m.checkMode.isSome := by
  cases m <;> rfl

theorem ofCheck_of_pendingPrimitive {i : Instr} {m : Micro} (h : pendingPrimitive i = some (.exec m)) :
    m.ofCheck = false := by
  cases i with
  | setRst l => cases l <;> cases h <;> rfl
  | irqDisable | irqEnable | hret | fatal | tickWait => cases h
  | tickNow | tickUntil | tickReached | setCs | setRxtx | getLevel | spiXfer => cases h; rfl

theorem dispatch_ctl_ne_exec (f : Frame) (line : Nat) (s : State) (m : Micro) : (dispatch f line s).ctl ≠ .exec m := by
  by_cases h : s.dstack.length = s.params.dispatchDepthMax
  · simp [dispatch_eq_fault h]
  · simp [dispatch_eq_respond h]

theorem sampleLine_next {i : Nat} {s : State} {m : Micro} (h : (sampleLine i s).ctl = .exec m) : m = .scan (i + 1) := by
  obtain ⟨-, e⟩ | ⟨-, -, e⟩ | ⟨-, -, e⟩ := sampleLine_cases i s <;> rw [e] at h
  · cases h; rfl
  · cases h; rfl
  · exact (dispatch_ctl_ne_exec _ _ _ _ h).elim

/-- A micro-step of a check leads to one of the same check; every micro-step may lead out of one, to the fatal path. -/
theorem microStep_next_checkMode {m m' : Micro} {s : State} (h : (microStep m s).ctl = .exec m') :
    m'.checkMode = none ∨ m'.checkMode = m.checkMode := by
  cases m with
  | tickNow | tickUntil | tickReached | drive | float | read | transportFatal => cases h
  | exchange b =>
    obtain ⟨-, e⟩ | ⟨-, e⟩ := exchangeAndRespond_cases b s <;> simp only [microStep, e] at h <;> cases h
    exact .inl rfl
  | scan r =>
    obtain ⟨-, e⟩ | ⟨i, -, e⟩ := scan_cases r s <;> rw [e] at h
    · cases h
    · cases sampleLine_next h
      exact .inr rfl
  | probeAssert | probeRelease => cases h; exact .inr rfl
  | probeCmd | probeDummy =>
    simp only [microStep, probeExchange, continueAt_ctl, Ctl.exec.injEq] at h
    split at h <;> subst h
    · exact .inl rfl
    · exact .inr rfl
  | probeDecide st =>
    simp only [microStep, probeDecide] at h
    split at h
    · cases h
    · exact (dispatch_ctl_ne_exec _ _ _ _ h).elim

/-- R182: the step from `s` to `t` decodes a command that leads into a check, of which `m` is the next micro-step: the IRQ_ENABLE
that brings `NEST` to 0, or an HRET that pops the frame of a scan. -/
def StartsCheck (s t : State) (m : Micro) : Prop :=
  ∃ c rest, s.ctl = .ready ∧ s.host = c :: rest ∧
    (decode s.params.numDio c.cmd c.arg = .instr .irqEnable ∧ s.nest = 1 ∧ t.nest = 0 ∧
        (s.cfg.mode = .dedicatedLine ∧ m = .scan 0 ∨ s.cfg.mode = .busProbe ∧ m = .probeAssert) ∨
      decode s.params.numDio c.cmd c.arg = .instr .hret ∧ s.nest = 0 ∧
        ∃ r, s.dstack = .line r :: t.dstack ∧ m = .scan r)

theorem exec_next_check {i : Instr} {s t : State} {m : Micro} (h : exec i s = .next t) (hm : t.ctl = .exec m)
    (hcheck : m.ofCheck = true) :
    (i = .irqEnable ∧ s.nest = 1 ∧ t.nest = 0 ∧
        (s.cfg.mode = .dedicatedLine ∧ m = .scan 0 ∨ s.cfg.mode = .busProbe ∧ m = .probeAssert)) ∨
      i = .hret ∧ s.nest = 0 ∧ ∃ r, s.dstack = .line r :: t.dstack ∧ m = .scan r := by
  obtain ⟨k, hk, -, rfl⟩ | ⟨_, rfl⟩ | ⟨_, _, _, _, rfl⟩ | ⟨_, _, rfl⟩ | ⟨_, _, _, rfl⟩ | ⟨hi, h1, m', hmode, rfl⟩ |
    ⟨hi, h0, r, rest, hd, rfl⟩ | ⟨_, _, _, _, rfl⟩ | ⟨_, _, _, rfl⟩ := exec_cases h
  case inl =>
    obtain rfl : k = .exec m := hm
    simp [ofCheck_of_pendingPrimitive hk] at hcheck
  case inr.inr.inr.inr.inr.inl =>
    obtain rfl : m' = m := Ctl.exec.inj hm
    exact .inl ⟨hi, h1, rfl, hmode⟩
  case inr.inr.inr.inr.inr.inr.inl => exact .inr ⟨hi, h0, r, hd, (Ctl.exec.inj hm).symm⟩
  all_goals cases hm

/-- Where the micro-step after a step comes from: it is of no check, of the check in progress, or of one that starts. -/
theorem step_next_check {s t : State} {m : Micro} (hr : pendingReset s = none) (h : step s = .next t)
    (hm : t.ctl = .exec m) :
    m.checkMode = none ∨ (∃ m', s.ctl = .exec m' ∧ m.checkMode = m'.checkMode) ∨ StartsCheck s t m := by
  obtain ⟨-, -, ⟨hc, -, rfl⟩ | ⟨c, rest, i, hc, hh, hd, he⟩ | ⟨c, rest, e, -, -, -, rfl⟩ | ⟨m', hc, rfl⟩ | ⟨d, -, rfl⟩⟩ :=
    step_cases hr h
  · simp [hc] at hm
  · cases hcheck : m.ofCheck with
    | false =>
      rw [Micro.ofCheck_eq, Option.isSome_eq_false_iff, Option.isNone_iff_eq_none] at hcheck
      exact .inl hcheck
    | true =>
      refine .inr (.inr ⟨c, rest, hc, hh, ?_⟩)
      obtain ⟨rfl, hstart⟩ | ⟨rfl, hresume⟩ := exec_next_check he hm hcheck
      · exact .inl ⟨hd, by simpa using hstart⟩
      · exact .inr ⟨hd, by simpa using hresume⟩
  · cases hm
  · exact (microStep_next_checkMode hm).imp_right fun e => .inl ⟨m', hc, e⟩
  · obtain ⟨-, e⟩ | ⟨-, e⟩ := waitSample_cases d (moved s) <;> rw [e] at hm <;> cases hm

/-- Settles O49: a next micro-step of a check, and no check in progress, leave the start of one. -/
theorem checksStartOnlyAtTheFinalEnable : Obligations.ChecksStartOnlyAtTheFinalEnable := by
  intro s t m hr h hout hm hcheck
  rw [Micro.ofCheck_eq] at hcheck
  obtain hnone | ⟨m', hc, hmode⟩ | hstart := step_next_check hr h hm
  · simp [hnone] at hcheck
  · have hno := hout m' hc
    rw [Micro.ofCheck_eq, ← hmode, hcheck] at hno
    cases hno
  · exact hstart

end Sys2Proof.Machine
end

section
/-! PROOFS. What a step adds to the history (20_memory.md R79, 43_interrupt_coordinator.md R203): no DISPATCH, or the one of a scan
that finds a rise or of a probe. -/

namespace Sys2Proof.Machine

/-- From `s` to `t` the history grows, and not by a DISPATCH. -/
def Quiet (s t : State) : Prop := ∃ new, t.history = new ++ s.history ∧ ∀ line, Event.dispatch line ∉ new

/-- From `s` to `t` there is one DISPATCH, for `line`, which is the last event; the response registers hold it (R95, R192). -/
structure Dispatched (line : Nat) (s t : State) : Prop where
  history : ∃ before, t.history = .dispatch line :: (before ++ s.history) ∧ ∀ l, Event.dispatch l ∉ before
  rkind : t.rkind = 1
  rdata : t.rdata = lineWord line
  ctl : t.ctl = .ready

section
variable {s t u : State} {line : Nat}

theorem Quiet.of_same (h : t.history = s.history) : Quiet s t := ⟨[], h, fun _ => List.not_mem_nil⟩

theorem Quiet.of_event {e : Event} (h : t.history = e :: s.history) (he : ∀ l, .dispatch l ≠ e) : Quiet s t :=
  ⟨[e], h, fun l hl => he l (List.mem_singleton.1 hl)⟩

theorem Quiet.trans (h : Quiet s t) (h' : Quiet t u) : Quiet s u := by
  obtain ⟨a, ha, hna⟩ := h
  obtain ⟨b, hb, hnb⟩ := h'
  refine ⟨b ++ a, by rw [hb, ha, List.append_assoc], fun l hl => ?_⟩
  exact (List.mem_append.1 hl).elim (hnb l) (hna l)

theorem Quiet.dispatched (h : Quiet s t) (h' : Dispatched line t u) : Dispatched line s u := by
  obtain ⟨a, ha, hna⟩ := h
  obtain ⟨⟨b, hb, hnb⟩, hkind, hdata, hctl⟩ := h'
  refine ⟨⟨b ++ a, by rw [hb, ha, List.append_assoc], fun l hl => ?_⟩, hkind, hdata, hctl⟩
  exact (List.mem_append.1 hl).elim (hnb l) (hna l)

theorem Quiet.suffix (h : Quiet s t) : s.history <:+ t.history := by
  obtain ⟨a, ha, -⟩ := h
  exact ⟨a, ha.symm⟩

theorem Dispatched.suffix (h : Dispatched line s t) : s.history <:+ t.history := by
  obtain ⟨b, hb, -⟩ := h.history
  exact ⟨.dispatch line :: b, hb.symm⟩

theorem Quiet.not_mem {new : List Event} (h : Quiet s t) (hnew : t.history = new ++ s.history) (l : Nat) :
    Event.dispatch l ∉ new := by
  obtain ⟨a, ha, hna⟩ := h
  obtain rfl : a = new := List.append_cancel_right (ha.symm.trans hnew)
  exact hna l

theorem Dispatched.eq_of_mem {new : List Event} {l : Nat} (h : Dispatched line s t)
    (hnew : t.history = new ++ s.history) (hl : Event.dispatch l ∈ new) : l = line := by
  obtain ⟨b, hb, hnb⟩ := h.history
  obtain rfl : .dispatch line :: b = new := List.append_cancel_right (hb.symm.trans hnew)
  obtain heq | hmem := List.mem_cons.1 hl
  · exact Event.dispatch.inj heq
  · exact absurd hmem (hnb l)

end

theorem dispatch_quiet_or_dispatched (f : Frame) (line : Nat) (s : State) :
    Quiet s (dispatch f line s) ∨ Dispatched line s (dispatch f line s) := by
  by_cases h : s.dstack.length = s.params.dispatchDepthMax
  · rw [dispatch_eq_fault h]
    exact .inl (.of_event rfl nofun)
  · rw [dispatch_eq_respond h]
    exact .inr ⟨⟨[], rfl, nofun⟩, rfl, rfl, rfl⟩

theorem exec_quiet {i : Instr} {s t : State} (h : exec i s = .next t) : Quiet s t := by
  obtain ⟨_, _, _, rfl⟩ | ⟨_, rfl⟩ | ⟨_, _, _, _, rfl⟩ | ⟨_, _, rfl⟩ | ⟨_, _, _, rfl⟩ | ⟨_, _, _, _, rfl⟩ |
    ⟨_, _, _, _, _, rfl⟩ | ⟨_, _, _, _, rfl⟩ | ⟨_, _, _, rfl⟩ := exec_cases h
  · exact .of_same rfl
  · exact .of_event rfl nofun
  · exact .of_event rfl nofun
  · exact .of_event rfl nofun
  · exact .of_event rfl nofun
  · exact .of_same rfl
  · exact .of_same rfl
  · exact .of_event rfl nofun
  · exact .of_event rfl nofun

theorem pinRead_quiet (p : Pin) (s : State) : Quiet s (pinRead p s) := .of_event rfl nofun

theorem probeDrive_quiet (l : Level) (s : State) : Quiet s (probeDrive l s) := by
  unfold probeDrive
  split
  · exact .of_event rfl nofun
  · exact .of_same rfl

theorem waitSample_quiet (d : Word) (s : State) : Quiet s (waitSample d s) := by
  have hread : Quiet s (readCounter s) := .of_event rfl nofun
  obtain ⟨-, e⟩ | ⟨-, e⟩ := waitSample_cases d s <;> rw [e]
  · exact hread.trans (.of_same rfl)
  · exact hread.trans (.of_event rfl nofun)

theorem exchangeAndRespond_quiet (b : Byte) (s : State) : Quiet s (exchangeAndRespond b s) := by
  have hxfer : Quiet s (spiExchange b s) := .of_event rfl nofun
  obtain ⟨-, e⟩ | ⟨-, e⟩ := exchangeAndRespond_cases b s <;> rw [e]
  · exact hxfer.trans (.of_same rfl)
  · exact hxfer.trans (.of_event rfl nofun)

/-- R190: the sample of a line dispatches only when it finds a rise. -/
theorem sampleLine_quiet_or_dispatched (i : Nat) (s : State) :
    Quiet s (sampleLine i s) ∨ Dispatched i s (sampleLine i s) ∧ edgeLevel s i = false := by
  have hread := pinRead_quiet (.dio i) s
  obtain ⟨-, e⟩ | ⟨-, -, e⟩ | ⟨-, he, e⟩ := sampleLine_cases i s <;> rw [e]
  · exact .inl (hread.trans (.of_same rfl))
  · exact .inl (hread.trans (.of_same rfl))
  · have hread' : Quiet s { pinRead (.dio i) s with edge := s.edge.set i true } := hread
    exact (dispatch_quiet_or_dispatched ..).imp hread'.trans fun h => ⟨hread'.dispatched h, he⟩

/-- Only the next wired line of a scan, low before, and the decision of a probe are dispatched. -/
theorem microStep_quiet_or_dispatched (m : Micro) (s : State) :
    Quiet s (microStep m s) ∨
      ∃ line, Dispatched line s (microStep m s) ∧
        ((∃ r, m = .scan r ∧ nextWired s r = some line ∧ edgeLevel s line = false) ∨
          ∃ status, m = .probeDecide status ∧ line = 0) := by
  cases m with
  | scan r =>
    obtain ⟨-, e⟩ | ⟨i, hi, e⟩ := scan_cases r s <;> rw [e]
    · exact .inl (.of_event rfl nofun)
    · exact (sampleLine_quiet_or_dispatched i s).imp_right fun ⟨h, he⟩ => ⟨i, h, .inl ⟨r, rfl, hi, he⟩⟩
  | probeDecide st =>
    simp only [microStep, probeDecide]
    split
    · exact .inl (.of_event rfl nofun)
    · exact (dispatch_quiet_or_dispatched .probe 0 s).imp_right fun h => ⟨0, h, .inr ⟨st, rfl, rfl⟩⟩
  | tickNow | tickUntil | tickReached =>
    exact .inl (Quiet.trans (t := readCounter s) (.of_event rfl nofun) (.of_event rfl nofun))
  | drive p l => exact .inl (Quiet.trans (t := pinDrive p l s) (.of_event rfl nofun) (.of_event rfl nofun))
  | float p => exact .inl (Quiet.trans (t := pinFloat p s) (.of_event rfl nofun) (.of_event rfl nofun))
  | read p => exact .inl ((pinRead_quiet p s).trans (.of_event rfl nofun))
  | exchange b => exact .inl (exchangeAndRespond_quiet b s)
  | probeAssert => exact .inl ((probeDrive_quiet s.params.csActive s).trans (.of_same rfl))
  | probeCmd | probeDummy => exact .inl (.of_event rfl nofun)
  | probeRelease st => exact .inl ((probeDrive_quiet (!s.params.csActive) s).trans (.of_same rfl))
  | transportFatal => exact .inl (.of_event rfl nofun)

@[simp] theorem dioWired_moved (s : State) (i : Nat) : dioWired (moved s) i = dioWired s i := by
  simp only [dioWired, moved_cfg]

@[simp] theorem nextWired_moved (s : State) (r : Nat) : nextWired (moved s) r = nextWired s r := by
  simp only [nextWired, moved_params, dioWired_moved]

@[simp] theorem edgeLevel_moved (s : State) (i : Nat) : edgeLevel (moved s) i = edgeLevel s i := by
  simp only [edgeLevel, moved_edge]

/-- A step without a reset gives no DISPATCH, or the one of a check's micro-step. -/
theorem step_quiet_or_dispatched {s t : State} (hr : pendingReset s = none) (h : step s = .next t) :
    Quiet s t ∨
      ∃ line, Dispatched line s t ∧
        ((∃ r, s.ctl = .exec (.scan r) ∧ nextWired s r = some line ∧ edgeLevel s line = false) ∨
          ∃ status, s.ctl = .exec (.probeDecide status) ∧ line = 0) := by
  have hmove : Quiet s (moved s) := .of_same (moved_history s)
  obtain ⟨-, -, ⟨-, -, rfl⟩ | ⟨c, rest, i, -, -, -, he⟩ | ⟨c, rest, e, -, -, -, rfl⟩ | ⟨m, hc, rfl⟩ | ⟨d, -, rfl⟩⟩ :=
    step_cases hr h
  · exact .inl hmove
  · exact .inl (Quiet.trans (t := { moved s with host := rest }) hmove (exec_quiet he))
  · exact .inl (hmove.trans (.of_event rfl nofun))
  · obtain hq | ⟨line, hline, ⟨r, rfl, hn, he⟩ | ⟨st, rfl, h0⟩⟩ := microStep_quiet_or_dispatched m (moved s)
    · exact .inl (hmove.trans hq)
    · exact .inr ⟨line, hmove.dispatched hline, .inl ⟨r, hc, by simpa using hn, by simpa using he⟩⟩
    · exact .inr ⟨line, hmove.dispatched hline, .inr ⟨st, hc, h0⟩⟩
  · exact .inl (hmove.trans (waitSample_quiet d (moved s)))

theorem step_history_suffix {s t : State} (hr : pendingReset s = none) (h : step s = .next t) :
    s.history <:+ t.history := by
  obtain hq | ⟨_, hline, -⟩ := step_quiet_or_dispatched hr h
  · exact hq.suffix
  · exact hline.suffix

/-- R185, R188: a check in progress is the one of the machine's mode. -/
theorem State.Inv.mode_of_checkMode {s : State} (h : s.Inv) {m : Micro} {mode : DispatchMode} (hc : s.ctl = .exec m)
    (hm : m.checkMode = some mode) : s.cfg.mode = mode := by
  have hlegal : microLegal s m = true := by simpa only [ctlLegal, hc] using h.ctl_legal
  cases m with
  | scan | probeAssert | probeCmd | probeDummy | probeRelease | probeDecide =>
    cases hm
    simp only [microLegal, Bool.and_eq_true, decide_eq_true_eq] at hlegal
    simp only [hlegal]
  | tickNow | tickUntil | tickReached | drive | float | read | exchange | transportFatal => cases hm

/-- Settles O45: the one DISPATCH of a step is the scan's, of a wired line, or the probe's, of line 0. -/
theorem dispatchCarriesItsLine : Obligations.DispatchCarriesItsLine := by
  intro s t new line hinv hr h hnew hmem
  obtain hq | ⟨line', hline, hfrom⟩ := step_quiet_or_dispatched hr h
  · exact absurd hmem (hq.not_mem hnew line)
  obtain rfl := hline.eq_of_mem hnew hmem
  refine ⟨hline.rkind, hline.rdata, hline.ctl, ?_⟩
  obtain ⟨r, hc, hn, -⟩ | ⟨st, hc, rfl⟩ := hfrom
  · obtain ⟨-, hlt, hw, -⟩ := nextWired_eq_some.1 hn
    exact .inl ⟨hinv.mode_of_checkMode hc rfl, hlt, hw⟩
  · exact .inr ⟨hinv.mode_of_checkMode hc rfl, rfl⟩

end Sys2Proof.Machine
end

section
/-! PROOFS. Exactly once per observed edge (43_interrupt_coordinator.md R200). One step: a line whose `EDGE` changes is the one that a
scan samples. Runs: while `EDGE[i]` is 1 no step dispatches line i, so a dispatch comes after a sample that found it low. -/

namespace Sys2Proof.Machine

/-! ## What one step does to `EDGE` -/

theorem sampleLine_edgeLevel {i : Nat} {s : State} (h : i < s.edge.length) (j : Nat) :
    edgeLevel (sampleLine i s) j = if j = i then extLevel s.env.ext (.dio i) else edgeLevel s j := by
  obtain ⟨hsame, e⟩ | ⟨hl, -, e⟩ | ⟨hl, -, e⟩ := sampleLine_cases i s <;> rw [e]
  · rw [hsame]
    split
    · subst j; rfl
    · rfl
  · rw [hl]
    exact edgeLevel_set h
  · rw [hl, edgeLevel, dispatch_edge]
    exact edgeLevel_set h

theorem sampleLine_edge_length (i : Nat) (s : State) : (sampleLine i s).edge.length = s.edge.length := by
  obtain ⟨-, e⟩ | ⟨-, -, e⟩ | ⟨-, -, e⟩ := sampleLine_cases i s <;> rw [e]
  · rfl
  · exact List.length_set
  · rw [dispatch_edge]
    exact List.length_set

/-- R29: a step leaves `EDGE` alone, or is the sample of the next wired line of a scan. -/
theorem step_edge_cases {s t : State} (hr : pendingReset s = none) (h : step s = .next t) :
    t.edge = s.edge ∨
      ∃ r i, s.ctl = .exec (.scan r) ∧ nextWired s r = some i ∧ t = sampleLine i (moved s) := by
  obtain ⟨-, -, ⟨-, -, rfl⟩ | ⟨c, rest, i, -, -, -, he⟩ | ⟨c, rest, e, -, -, -, rfl⟩ | ⟨m, hc, rfl⟩ | ⟨d, -, rfl⟩⟩ :=
    step_cases hr h
  · exact .inl (moved_edge s)
  · exact .inl ((exec_kept he).2.trans (moved_edge s))
  · exact .inl (moved_edge s)
  · by_cases hscan : ∃ r, m = .scan r
    · obtain ⟨r, rfl⟩ := hscan
      obtain ⟨-, e⟩ | ⟨i, hi, e⟩ := scan_cases r (moved s) <;> rw [e]
      · exact .inl (moved_edge s)
      · exact .inr ⟨r, i, hc, by simpa using hi, rfl⟩
    · exact .inl ((microStep_edge fun r e => hscan ⟨r, e⟩).trans (moved_edge s))
  · exact .inl ((waitSample_edge d (moved s)).trans (moved_edge s))

theorem step_edge_length {s t : State} (hr : pendingReset s = none) (h : step s = .next t) :
    t.edge.length = s.edge.length := by
  obtain he | ⟨r, i, -, -, rfl⟩ := step_edge_cases hr h
  · rw [he]
  · rw [sampleLine_edge_length, moved_edge]

/-- R29: the line whose `EDGE` changes is wired, and a scan samples it and reads its new level. -/
theorem step_edgeLevel_change {s t : State} {i : Nat} (hlen : s.edge.length = s.params.numDio)
    (hr : pendingReset s = none) (h : step s = .next t) (hne : edgeLevel t i ≠ edgeLevel s i) :
    (∃ r, s.ctl = .exec (.scan r)) ∧ dioWired s i = true ∧ extLevel (moved s).env.ext (.dio i) = edgeLevel t i ∧
      t = sampleLine i (moved s) := by
  obtain he | ⟨r, j, hc, hn, rfl⟩ := step_edge_cases hr h
  · exact absurd (by rw [edgeLevel, he, edgeLevel]) hne
  obtain ⟨-, hlt, hw, -⟩ := nextWired_eq_some.1 hn
  have hedge := sampleLine_edgeLevel (s := moved s) (i := j) (by rw [moved_edge, hlen]; exact hlt)
  by_cases hij : i = j
  · subst i
    exact ⟨⟨r, hc⟩, hw, ((hedge j).trans (if_pos rfl)).symm, rfl⟩
  · exact absurd ((hedge i).trans ((if_neg hij).trans (edgeLevel_moved s i))) hne

/-- R190: the micro-step that lowers `EDGE[i]`. -/
theorem step_edge_fall {s t : State} {i : Nat} (hlen : s.edge.length = s.params.numDio) (hr : pendingReset s = none)
    (h : step s = .next t) (hhigh : edgeLevel s i = true) (hlow : edgeLevel t i = false) :
    (∃ r, s.ctl = .exec (.scan r)) ∧ t.history = .read (.dio i) false :: s.history := by
  obtain ⟨hscan, -, hl, ht⟩ := step_edgeLevel_change hlen hr h (i := i) (by simp [hlow, hhigh])
  rw [hlow] at hl
  rw [ht, sampleLine_fall hl (by rw [edgeLevel_moved, hhigh])]
  exact ⟨hscan, by simp [hl]⟩

/-! ## Runs of a machine in DedicatedLine mode -/

/-- What the argument over runs needs of a machine in DedicatedLine mode: `EDGE` has its length, and no probe is in progress. -/
structure ChecksLines (s : State) : Prop where
  mode : s.cfg.mode = .dedicatedLine
  edge_length : s.edge.length = s.params.numDio
  no_probe : ∀ m, s.ctl = .exec m → m.checkMode ≠ some .busProbe

theorem State.Inv.checksLines {s : State} (h : s.Inv) (hmode : s.cfg.mode = .dedicatedLine) : ChecksLines s where
  mode := hmode
  edge_length := h.edge_length
  no_probe := fun m hc hm => by simp [h.mode_of_checkMode hc hm] at hmode

/-- A step without a reset changes neither parameters nor configuration, and takes one input. -/
theorem step_fixed {s t : State} (hr : pendingReset s = none) (h : step s = .next t) :
    t.params = s.params ∧ t.cfg = s.cfg ∧ t.inputs = s.inputs.tail := by
  have of_kept : ∀ {u : State}, Kept u t → u.params = s.params → u.cfg = s.cfg → u.inputs = s.inputs.tail →
      t.params = s.params ∧ t.cfg = s.cfg ∧ t.inputs = s.inputs.tail :=
    fun hk hp hc hi => ⟨hk.params.trans hp, hk.cfg.trans hc, hk.inputs.trans hi⟩
  obtain ⟨-, -, ⟨-, -, rfl⟩ | ⟨c, rest, i, -, -, -, he⟩ | ⟨c, rest, e, -, -, -, rfl⟩ | ⟨m, -, rfl⟩ | ⟨d, -, rfl⟩⟩ :=
    step_cases hr h
  · exact ⟨moved_params s, moved_cfg s, moved_inputs s⟩
  · exact of_kept (exec_kept he).1 (moved_params s) (moved_cfg s) (moved_inputs s)
  · exact ⟨moved_params s, moved_cfg s, moved_inputs s⟩
  · exact of_kept (microStep_kept m (moved s)) (moved_params s) (moved_cfg s) (moved_inputs s)
  · exact of_kept (waitSample_kept d (moved s)) (moved_params s) (moved_cfg s) (moved_inputs s)

theorem step_noReset {s t : State} (hs : s.noReset) (h : step s = .next t) : t.noReset := by
  obtain ⟨-, -, hinputs⟩ := step_fixed (pendingReset_of_noReset hs) h
  exact noReset_tail hs hinputs

/-- A check that starts in DedicatedLine mode is a scan, and a scan leads to no probe. -/
theorem ChecksLines.kept_by_step {s t : State} (hs : ChecksLines s) (hr : pendingReset s = none) (h : step s = .next t) :
    ChecksLines t := by
  obtain ⟨hparams, hcfg, -⟩ := step_fixed hr h
  refine ⟨by rw [hcfg, hs.mode], by rw [step_edge_length hr h, hparams, hs.edge_length], fun m hm hprobe => ?_⟩
  obtain hnone | ⟨m', hc, hmode⟩ | hstart := step_next_check hr h hm
  · simp [hnone] at hprobe
  · exact hs.no_probe m' hc (hmode ▸ hprobe)
  · obtain ⟨c, rest, -, -, ⟨-, -, -, ⟨-, rfl⟩ | ⟨hbus, -⟩⟩ | ⟨-, -, r, -, rfl⟩⟩ := hstart
    · cases hprobe
    · simp [hs.mode] at hbus
    · cases hprobe

/-- R200: a line whose `EDGE` is 1 is not dispatched. -/
theorem ChecksLines.edge_low_of_dispatch {s t : State} {new : List Event} {i : Nat} (hs : ChecksLines s)
    (hr : pendingReset s = none) (h : step s = .next t) (hnew : t.history = new ++ s.history)
    (hmem : Event.dispatch i ∈ new) : edgeLevel s i = false := by
  obtain hq | ⟨line, hline, hfrom⟩ := step_quiet_or_dispatched hr h
  · exact absurd hmem (hq.not_mem hnew i)
  obtain rfl := hline.eq_of_mem hnew hmem
  obtain ⟨r, -, -, hlow⟩ | ⟨st, hc, -⟩ := hfrom
  · exact hlow
  · exact absurd rfl (hs.no_probe _ hc)

theorem run_succ_inv {s t : State} {k : Nat} (h : core.run (k + 1) s = .next t) :
    ∃ u, step s = .next u ∧ core.run k u = .next t := by
  cases hs : step s with
  | next u => exact ⟨u, rfl, by rwa [run_succ k hs] at h⟩
  | fault r =>
    have e : core.step s = .fault r := hs
    simp only [Host.Core.run, e] at h
    cases h
  | refused r =>
    have e : core.step s = .refused r := hs
    simp only [Host.Core.run, e] at h
    cases h

theorem run_history_suffix {s t : State} {k : Nat} (hs : s.noReset) (h : core.run k s = .next t) :
    s.history <:+ t.history := by
  induction k generalizing s with
  | zero =>
    cases h
    exact List.suffix_rfl
  | succ k ih =>
    obtain ⟨u, hu, hrun⟩ := run_succ_inv h
    exact (step_history_suffix (pendingReset_of_noReset hs) hu).trans (ih (step_noReset hs hu) hrun)

/-- R200, over runs: between a state with `EDGE[i]` = 1 and a dispatch of line i, a scan sees the line low. -/
theorem ChecksLines.low_sample_before_dispatch {s t : State} {k i : Nat} {new : List Event} (hs : ChecksLines s)
    (hn : s.noReset) (hhigh : edgeLevel s i = true) (hrun : core.run k s = .next t)
    (hnew : t.history = new ++ s.history) (hmem : Event.dispatch i ∈ new) :
    ∃ (j : Nat) (u v : State), j < k ∧ core.run j s = .next u ∧ step u = .next v ∧
      (∃ r, u.ctl = .exec (.scan r)) ∧ edgeLevel u i = true ∧ edgeLevel v i = false ∧
      v.history = .read (.dio i) false :: u.history := by
  induction k generalizing s new with
  | zero =>
    cases hrun
    obtain rfl : new = [] := List.self_eq_append_left.1 hnew
    cases hmem
  | succ k ih =>
    obtain ⟨s', hstep, hrun'⟩ := run_succ_inv hrun
    have hr := pendingReset_of_noReset hn
    cases hedge : edgeLevel s' i with
    | false =>
      obtain ⟨hscan, hread⟩ := step_edge_fall hs.edge_length hr hstep hhigh hedge
      exact ⟨0, s, s', k.succ_pos, rfl, hstep, hscan, hhigh, hedge, hread⟩
    | true =>
      obtain ⟨first, hfirst⟩ := step_history_suffix hr hstep
      obtain ⟨later, hlater⟩ := run_history_suffix (step_noReset hn hstep) hrun'
      have hsplit : later ++ first = new := by
        refine List.append_cancel_right (bs := s.history) ?_
        rw [List.append_assoc, hfirst, hlater, hnew]
      rw [← hsplit, List.mem_append] at hmem
      obtain hmem | hmem := hmem
      · obtain ⟨j, u, v, hj, hu, hrest⟩ := ih (hs.kept_by_step hr hstep) (step_noReset hn hstep) hedge hrun' hlater.symm hmem
        exact ⟨j + 1, u, v, Nat.succ_lt_succ hj, (run_succ j hstep).trans hu, hrest⟩
      · simp [hs.edge_low_of_dispatch hr hstep hfirst.symm hmem] at hhigh

/-- Settles O46: the rise of `EDGE[i]` is its dispatch entry, and along a run the fall comes before the next one. -/
theorem exactlyOncePerObservedEdge : Obligations.ExactlyOncePerObservedEdge := by
  constructor
  · intro s t i hinv hr h hlow hhigh
    obtain ⟨hscan, hw, hl, ht⟩ := step_edgeLevel_change hinv.edge_length hr h (i := i) (by simp [hlow, hhigh])
    rw [hhigh] at hl
    refine ⟨hscan, by simp [pending, hw, hlow, hl], ?_⟩
    rw [← edgeLevel_moved] at hlow
    by_cases hdepth : s.dstack.length = s.params.dispatchDepthMax
    · rw [ht, sampleLine_rise_fault hl hlow (by simpa using hdepth)]
      exact .inr ⟨by simp, by simp, rfl, rfl, hdepth⟩
    · rw [ht, sampleLine_rise_respond hl hlow (by simpa using hdepth)]
      exact .inl ⟨by simp, by simp, rfl, Nat.lt_of_le_of_ne hinv.stack_depth hdepth⟩
  · intro s t k i new hinv hn hmode
    exact (hinv.checksLines hmode).low_sample_before_dispatch hn

end Sys2Proof.Machine
end

section
/-! PROOFS. The fatal report (44_fatal.md R221, R222): the word of FATAL, and the fatal path with its saturating increment. -/

namespace Sys2Proof.Machine

/-- Format F: every value of bits 23..0 is a line number, and `ARG` is the location. -/
theorem decode_fatal_word (n : Nat) (loc : Word) (line : BitVec 24) :
    decode n (0xF0#8 ++ line) loc = .instr (.fatal loc line) := by
  rw [decode_fatal (op_of_append 0xF0#8 line), low_of_append]

/-- R222, with the saturation as a bound on `NEST`. -/
theorem fatalHalt_eq (s : State) (c : Cause) (loc : Word) (line : BitVec 24) :
    fatalHalt c loc line s =
      { s with
        flog := ⟨true, loc, line⟩, nest := if s.nest.toNat < 2 ^ 32 - 1 then s.nest + 1 else s.nest
        fcause := causeCode c, finfo := loc, ctl := .halted, history := .log loc line :: s.history } := by
  rw [fatalHalt, nestSaturating_eq]

theorem exec_fatal (loc : Word) (line : BitVec 24) (s : State) :
    exec (.fatal loc line) s = .next (fatalHalt .reportFatal loc line s) := rfl

/-- Settles O41: the fatal path is one equation for every cause, and FATAL runs it with cause REPORT_FATAL. -/
theorem fatalLogsAndHalts : Obligations.FatalLogsAndHalts := by
  refine ⟨decode_fatal_word, fatalHalt_eq, fun s loc line => ?_⟩
  rw [exec_fatal, fatalHalt_eq]
  rfl

end Sys2Proof.Machine
end

section
/-! PROOFS. Raising a fault (60_exceptions.md R232, R233): its whole effect as one equation, and the cause codes. -/

namespace Sys2Proof.Machine

/-- R233: `FCAUSE`, `FINFO`, `CTL` and the event; every other field is the old state's. -/
theorem raiseFault_eq (c : Cause) (info : Word) (s : State) :
    raiseFault c info s =
      { s with fcause := causeCode c, finfo := info, ctl := .faulted, history := .fault c :: s.history } := rfl

/-- Settles O42: the frame is `raiseFault_eq`, and R232's ten codes are evaluated. -/
theorem raisingAFaultWritesThreeRegisters : Obligations.RaisingAFaultWritesThreeRegisters :=
  ⟨raiseFault_eq, by decide⟩

end Sys2Proof.Machine
end

section
/-! PROOFS. The half-range hazard of the comparator (70_reset_and_hazards.md R286). -/

namespace Sys2Proof.Machine

/-- In two's complement the words at most 0 are the negations of 0..2^31; 2^31 is its own negation, which is why R286's range
holds both ends. -/
theorem toInt_nonpos_iff_neg_toNat_le (x : Word) : x.toInt ≤ 0 ↔ (-x).toNat ≤ 2 ^ 31 := by
  rw [BitVec.toInt_eq_toNat_cond, BitVec.toNat_neg]
  have := x.isLt
  split <;> omega

/-- Settles O26: the tick minus the deadline is the negation of the signed delta that `reached` compares with 0. -/
theorem reachedIsHalfTheRange : Obligations.ReachedIsHalfTheRange := fun d n =>
  calc reached d n = true
    _ ↔ (d - n).toInt ≤ 0 := reached_iff d n
    _ ↔ (-(d - n)).toNat ≤ 2 ^ 31 := toInt_nonpos_iff_neg_toNat_le (d - n)
    _ ↔ (n - d).toNat ≤ 2 ^ 31 := by rw [neg_sub]

end Sys2Proof.Machine
end

section
/-! PROOFS. The reset values (70_reset_and_hazards.md R271, R274) of `State.boot`, one lemma for each element that is not a field
copied or a constant. -/

namespace Sys2Proof.Machine

section
variable (p : Params) (r : ResetInputs) (env : Env) (inputs : List Input) (k : Nat)

theorem boot_edge_length : (State.boot p r env inputs k).edge.length = p.numDio :=
  List.length_replicate

/-- Every line's edge level is low, those beyond `NUM_DIO` included. -/
theorem boot_edgeLevel (i : Nat) : edgeLevel (State.boot p r env inputs k) i = false := by
  by_cases h : i < p.numDio <;> simp [edgeLevel, State.boot, h]

theorem boot_pins_cs : (State.boot p r env inputs k).pins.cs =
    if r.cfg.cs.unused then none else some ⟨.output, r.csOut⟩ := rfl

theorem boot_pins_rst : (State.boot p r env inputs k).pins.rst =
    if r.cfg.rst.unused then none else some r.rst := rfl

theorem boot_pins_rxtx : (State.boot p r env inputs k).pins.rxtx =
    if r.cfg.rxtx.unused then none else some ⟨.output, r.rxtxOut⟩ := rfl

end

/-- Settles O15: the pins split on whether each is wired, the edge levels are low whatever `NUM_DIO` is, and the other elements are
fields of `State.boot`. -/
theorem resetLeavesTheResetValues : Obligations.ResetLeavesTheResetValues := by
  rintro p r env inputs k s rfl
  refine ⟨rfl, rfl, boot_edge_length .., boot_edgeLevel p r env inputs k, rfl, rfl, rfl, rfl, rfl, rfl, rfl, rfl, rfl,
    ?csWired, ?rxtxWired, ?rstWired, ?csUnused, ?rxtxUnused, ?rstUnused, rfl⟩
  case csWired | csUnused => intro h; rw [boot_pins_cs, h]; rfl
  case rxtxWired | rxtxUnused => intro h; rw [boot_pins_rxtx, h]; rfl
  case rstWired | rstUnused => intro h; rw [boot_pins_rst, h]; rfl

end Sys2Proof.Machine
end

section
/-! PROOFS. Decoding is the inverse of encoding (30_encoding.md R92, R93, R100, R105), and the illegal operands of R105. -/

namespace Sys2Proof

/-! ## The words of a command, format by format -/

theorem op_of_formatP (op : BitVec 8) (pin : BitVec 4) (lvl : BitVec 2) :
    (formatP op pin lvl).extractLsb' 24 8 = op := by
  rw [formatP, BitVec.extractLsb'_append_eq_of_le (by omega), BitVec.extractLsb'_append_eq_of_le (by omega),
    BitVec.extractLsb'_append_eq_of_le (by omega)]
  simp

theorem reserved_of_formatP (op : BitVec 8) (pin : BitVec 4) (lvl : BitVec 2) :
    (formatP op pin lvl).extractLsb' 2 18 = 0 := by
  rw [formatP, BitVec.extractLsb'_append_eq_of_le (by omega), BitVec.extractLsb'_append_eq_of_add_le (by omega)]
  simp

theorem fields_of_formatB (op : BitVec 8) (b : Byte) :
    (op ++ 0#16 ++ b).extractLsb' 24 8 = op ∧ (op ++ 0#16 ++ b).extractLsb' 8 16 = 0 ∧
      (op ++ 0#16 ++ b).extractLsb' 0 8 = b := by
  refine ⟨?_, ?_, ?_⟩
  · rw [BitVec.extractLsb'_append_eq_of_le (by omega), BitVec.extractLsb'_append_eq_of_le (by omega)]
    simp
  · rw [BitVec.extractLsb'_append_eq_of_le (by omega), BitVec.extractLsb'_append_eq_of_add_le (by omega)]
    simp
  · rw [BitVec.extractLsb'_append_eq_of_add_le (by omega)]
    simp

section
variable (n : Nat) (arg : Word)

theorem decode_pinSet_word (pin : BitVec 4) (lvl : BitVec 2) :
    decode n (formatP 0x20 pin lvl) arg = decodePinSet pin lvl := by
  rw [decode_of_pinSet_fields (op_of_formatP ..) (pin_of_formatP ..) (reserved_of_formatP ..), lvl_of_formatP]

theorem decode_getLevel_word (pin : BitVec 4) (lvl : BitVec 2) :
    decode n (formatP 0x21 pin lvl) arg = requireZero lvl (decodeGetLevel n pin) := by
  rw [decode_getLevel (op_of_formatP ..), requireZero_of_eq (reserved_of_formatP ..), lvl_of_formatP, pin_of_formatP]

theorem decode_spiXfer_word (b : Byte) : decode n (0x30#8 ++ 0#16 ++ b) arg = .instr (.spiXfer b) := by
  obtain ⟨hop, hres, hb⟩ := fields_of_formatB 0x30#8 b
  rw [decode_spiXfer hop, requireZero_of_eq hres, hb]

end

theorem decodeGetLevel_pinCode {n : Nat} {p : Pin} (h : p.wf n = true) :
    decodeGetLevel n (pinCode p) = .instr (.getLevel p) := by
  rw [decodeGetLevel, pinOfCode_pinCode h]

/-- Settles O1: format by format, each field of the word is read back as it was put in. -/
theorem decodeOfEncode : Obligations.DecodeOfEncode := by
  intro n i hwf
  cases i with
  | irqDisable | irqEnable | hret | tickNow => rfl
  | tickUntil d | tickReached d | tickWait d => simp only [encode, encodeCmd, encodeArg]; rfl
  | setCs l | setRxtx l => exact (decode_pinSet_word n 0 _ _).trans (by cases l <;> rfl)
  | setRst l =>
    refine (decode_pinSet_word n 0 _ _).trans ?_
    cases l with
    | drive b => cases b <;> rfl
    | floating => rfl
  | getLevel p => exact (decode_getLevel_word n 0 _ _).trans (decodeGetLevel_pinCode hwf)
  | spiXfer b => exact decode_spiXfer_word n 0 b
  | fatal loc line => exact Machine.decode_fatal_word n loc line

/-- Settles O2: `decode_inv`, which goes through the formats. -/
theorem decodedWordIsTheEncodedWord : Obligations.DecodedWordIsTheEncodedWord :=
  fun _ _ _ _ => decode_inv

/-! ## Illegal operands -/

/-- R105: a pin that is not of 0x20, or a level that is not of the pin. -/
theorem decodePinSet_illegal : ∀ (pin : BitVec 4) (lvl : BitVec 2),
    pin.toNat = 0 ∧ 2 ≤ lvl.toNat ∨ pin.toNat = 1 ∧ lvl.toNat = 3 ∨ pin.toNat = 2 ∧ 2 ≤ lvl.toNat ∨ 3 ≤ pin.toNat →
    decodePinSet pin lvl = .fault .illegalOperand := by decide

/-- R101: 3 and the codes past the last line. -/
theorem pinOfCode_illegal {n : Nat} {c : BitVec 4} (h : c.toNat = 3 ∨ 4 + n ≤ c.toNat) : pinOfCode n c = none := by
  have hne : ∀ k : BitVec 4, k.toNat < 3 → c ≠ k := by
    rintro k hk rfl
    omega
  rw [pinOfCode, if_neg (hne 0 (by decide)), if_neg (hne 1 (by decide)), if_neg (hne 2 (by decide)), if_neg (by omega)]

theorem decodeGetLevel_illegal {n : Nat} {c : BitVec 4} (h : c.toNat = 3 ∨ 4 + n ≤ c.toNat) :
    decodeGetLevel n c = .fault .illegalOperand := by
  rw [decodeGetLevel, pinOfCode_illegal h]

/-- Settles O7: past the reserved bits only the operand check is left, of 0x20 or of 0x21. -/
theorem illegalOperandFaults : Obligations.IllegalOperandFaults := by
  rintro s c _ _ _ rfl rfl rfl hres h
  refine Machine.issue_fault (e := .illegalOperand) ?_
  obtain ⟨hop, hbad⟩ | ⟨hop, hlvl, hbad⟩ := h
  · rw [decode_of_pinSet_fields hop rfl hres, decodePinSet_illegal _ _ hbad]
  · have hzero : c.cmd.extractLsb' 0 2 = 0 := BitVec.eq_of_toNat_eq hlvl
    rw [decode_getLevel hop, requireZero_of_eq hres, requireZero_of_eq hzero, decodeGetLevel_illegal hbad]

/-- Settles O8: each word of R107 is evaluated. -/
theorem exampleWordsDecode : Obligations.ExampleWordsDecode := by
  unfold Obligations.ExampleWordsDecode
  decide

end Sys2Proof
end

section
/-! PROOFS. The parts of a step (20_memory.md R63 to R68): the environment's moves, a reset, and the block's own step in
READY, EXEC and WAITING. -/

namespace Sys2Proof.Machine

/-- R68: a level the environment may set. -/
theorem level_of_move (new : Option Level) (old : Level) :
    (∀ l, new = some l → new.getD old = l) ∧ (new = none → new.getD old = old) := by
  cases new with
  | none => exact ⟨nofun, fun _ => rfl⟩
  | some l => exact ⟨fun _ h => Option.some.inj h, nofun⟩

/-- Settles O12: `moved_eq`, and the environment after a move is `moveEnv`, level by level. -/
theorem environmentMovesOnlyItsOwnState : Obligations.EnvironmentMovesOnlyItsOwnState := by
  refine ⟨moved_eq, fun s m rest h => ?_⟩
  rw [moved_env_of_move h]
  obtain ⟨hcs, hcs'⟩ := level_of_move m.cs s.env.ext.cs
  obtain ⟨hrst, hrst'⟩ := level_of_move m.rst s.env.ext.rst
  obtain ⟨hrxtx, hrxtx'⟩ := level_of_move m.rxtx s.env.ext.rxtx
  exact ⟨rfl, hcs, hcs', hrst, hrst', hrxtx, hrxtx', fun _ _ => overlay_new, fun _ => overlay_old, overlay_length ..⟩

/-- Settles O9: without a reset a step is the block's own, which issues the host's next command. -/
theorem stepRunsTheDecodedCommand : Obligations.StepRunsTheDecodedCommand := by
  intro s c rest hp hcfg hr hc hh
  rw [step_of_no_reset hp hcfg hr, blockStep_issue ((moved_ctl s).trans hc) ((moved_host s).trans hh), ← moved_params s]
  exact ⟨fun _ hd => issue_instr hd, fun _ hd => issue_fault hd⟩

/-- Settles O10: without a reset a step is the block's own. -/
theorem stepTakesTheNextMicroStep : Obligations.StepTakesTheNextMicroStep := by
  intro s hp hcfg hr
  rw [step_of_no_reset hp hcfg hr]
  exact ⟨fun _ hc => blockStep_exec ((moved_ctl s).trans hc), fun _ hc => blockStep_waiting ((moved_ctl s).trans hc)⟩

/-- Settles O11: without a reset a step is the block's own, which is none in READY without a command. -/
theorem readyBlockWaitsForTheHost : Obligations.ReadyBlockWaitsForTheHost := by
  intro s hp hcfg hr hc hh
  refine ⟨?_, moved_history s⟩
  rw [step_of_no_reset hp hcfg hr]
  exact blockStep_idle ((moved_ctl s).trans hc) ((moved_host s).trans hh)

theorem pendingReset_of_reset {s : State} {m : EnvMove} {r : ResetInputs} {rest : List Input}
    (h : s.inputs = .reset m r :: rest) : pendingReset s = some r := by
  rw [pendingReset, h]

theorem moved_of_reset {s : State} {m : EnvMove} {r : ResetInputs} {rest : List Input}
    (h : s.inputs = .reset m r :: rest) : moved s = applyMove m { s with inputs := rest } := by
  rw [moved, h]

/-- Settles O16: `outsideStep` looks for a reset before it looks at `CTL`. -/
theorem resetComesInEveryControlState : Obligations.ResetComesInEveryControlState := by
  intro s m r rest hp hcfg h
  rw [step_of_legal hp hcfg, outsideStep, pendingReset_of_reset h, moved_of_reset h]
  exact ⟨fun hlegal => if_pos hlegal, fun hillegal => if_neg (ne_true_of_eq_false hillegal)⟩

end Sys2Proof.Machine
end

section
/-! PROOFS. What a micro-step of a command in progress can do (20_memory.md R66), said once: its environment primitive, and
then one of four endings. -/

namespace Sys2Proof.Machine

/-- The state after the read of line `i` by a scan, with `EDGE[i]` at the level read (R190). -/
def lineRead (i : Nat) (s : State) : State :=
  { pinRead (.dio i) s with edge := s.edge.set i (extLevel s.env.ext (.dio i)) }

/-- The state after the environment primitive of a micro-step (R12), with the pin or `EDGE` that the same `step:` writes. -/
def afterPrimitive (m : Micro) (s : State) : State :=
  match m with
  | .tickNow | .tickUntil _ | .tickReached _ => readCounter s
  | .drive p l => pinDrive p l s
  | .float p => pinFloat p s
  | .read p => pinRead p s
  | .exchange b => spiExchange b s
  | .scan r =>
    match nextWired s r with
    | some i => lineRead i s
    | none => s
  | .probeAssert => probeDrive s.params.csActive s
  | .probeCmd => spiExchange s.params.probeCmd s
  | .probeDummy => spiExchange s.params.probeDummy s
  | .probeRelease _ => probeDrive (!s.params.csActive) s
  | .probeDecide _ | .transportFatal => s

/-- The micro-step that one goes on to: the next of the same check, or the fatal path after an exchange that failed. -/
inductive Follows (s : State) : Micro → Micro → Prop
  | scan {r i : Nat} (h : nextWired s r = some i) : Follows s (.scan r) (.scan (i + 1))
  | probeCmd : Follows s .probeAssert .probeCmd
  | probeDummy : Follows s .probeCmd .probeDummy
  | probeRelease (status : Byte) : Follows s .probeDummy (.probeRelease status)
  | probeDecide (status : Byte) : Follows s (.probeRelease status) (.probeDecide status)
  | exchangeFailed (b : Byte) : Follows s (.exchange b) .transportFatal
  | probeCmdFailed : Follows s .probeCmd .transportFatal
  | probeDummyFailed : Follows s .probeDummy .transportFatal

/-- The frame and the line of the dispatch that a micro-step can make (R190, R193): the line a scan samples, or the probe's
line 0. -/
inductive Dispatches (s : State) : Micro → Frame → Nat → Prop
  | line {r i : Nat} (h : nextWired s r = some i) : Dispatches s (.scan r) (.line (i + 1)) i
  | probe (status : Byte) : Dispatches s (.probeDecide status) .probe 0

/-- How a micro-step ends, `u` being the state after its primitive. -/
inductive MicroEnds (s : State) (m : Micro) (u : State) : State → Prop
  | done (d : Word) : MicroEnds s m u (respondDone d u)
  | next {m' : Micro} (h : Follows s m m') : MicroEnds s m u (continueAt m' u)
  | dispatch {f : Frame} {line : Nat} (h : Dispatches s m f line) : MicroEnds s m u (dispatch f line u)
  | halt (h : m = .transportFatal) : MicroEnds s m u (fatalHalt .transportFault fatalLocTransport 0 u)

theorem probeExchange_eq (t : Byte) (ok : Micro) (s : State) :
    probeExchange t ok s = continueAt .transportFatal (spiExchange t s) ∨
      probeExchange t ok s = continueAt ok (spiExchange t s) := by
  unfold probeExchange
  cases s.env.busErr
  · exact .inr rfl
  · exact .inl rfl

/-- Writing the level that `EDGE[i]` has leaves `EDGE` as it is. -/
theorem edge_set_edgeLevel (s : State) (i : Nat) : s.edge.set i (edgeLevel s i) = s.edge := by
  by_cases h : i < s.edge.length
  · simp [edgeLevel, List.getD, h]
  · exact List.set_eq_of_length_le (Nat.not_lt.1 h)

/-- R190: a scan that finds a line ends by going on after it, or by its dispatch. -/
theorem sampleLine_ends {r i : Nat} {s : State} (h : nextWired s r = some i) :
    MicroEnds s (.scan r) (lineRead i s) (sampleLine i s) := by
  obtain ⟨hl, e⟩ | ⟨hl, -, e⟩ | ⟨hl, -, e⟩ := sampleLine_cases i s <;> rw [e, lineRead, hl]
  · rw [edge_set_edgeLevel]
    exact .next (.scan h)
  · exact .next (.scan h)
  · exact .dispatch (.line h)

/-- All a micro-step can do. -/
theorem microStep_ends {m : Micro} {s t : State} (h : t = microStep m s) : MicroEnds s m (afterPrimitive m s) t := by
  subst h
  cases m with
  | tickNow | tickUntil | tickReached | drive | float | read => exact .done _
  | exchange b =>
    obtain ⟨-, e⟩ | ⟨-, e⟩ := exchangeAndRespond_cases b s <;> rw [microStep, e]
    · exact .next (.exchangeFailed b)
    · exact .done _
  | scan r =>
    obtain ⟨h, e⟩ | ⟨i, h, e⟩ := scan_cases r s <;> rw [afterPrimitive, e, h]
    · exact .done 0
    · exact sampleLine_ends h
  | probeAssert => exact .next .probeCmd
  | probeCmd =>
    obtain e | e := probeExchange_eq s.params.probeCmd .probeDummy s <;> rw [microStep, e]
    · exact .next .probeCmdFailed
    · exact .next .probeDummy
  | probeDummy =>
    obtain e | e := probeExchange_eq s.params.probeDummy (.probeRelease s.env.busByte) s <;> rw [microStep, e]
    · exact .next .probeDummyFailed
    · exact .next (.probeRelease _)
  | probeRelease status => exact .next (.probeDecide status)
  | probeDecide status =>
    rw [microStep, probeDecide]
    split
    · exact .done 0
    · exact .dispatch (.probe status)
  | transportFatal => exact .halt rfl

/-- A primitive writes no more than the pins, `EDGE` and the history. -/
theorem afterPrimitive_eq (m : Micro) (s : State) :
    afterPrimitive m s =
      { s with
        pins := (afterPrimitive m s).pins, edge := (afterPrimitive m s).edge, history := (afterPrimitive m s).history } := by
  cases m with
  | scan r => simp only [afterPrimitive]; split <;> rfl
  | probeAssert | probeRelease => simp only [afterPrimitive, probeDrive]; split <;> rfl
  | tickNow | tickUntil | tickReached | drive | float | read | exchange | probeCmd | probeDummy | probeDecide
  | transportFatal => rfl

section
variable (m : Micro) (s : State)

@[simp] theorem afterPrimitive_params : (afterPrimitive m s).params = s.params := by rw [afterPrimitive_eq]
@[simp] theorem afterPrimitive_cfg : (afterPrimitive m s).cfg = s.cfg := by rw [afterPrimitive_eq]
@[simp] theorem afterPrimitive_nest : (afterPrimitive m s).nest = s.nest := by rw [afterPrimitive_eq]
@[simp] theorem afterPrimitive_dstack : (afterPrimitive m s).dstack = s.dstack := by rw [afterPrimitive_eq]
@[simp] theorem afterPrimitive_fcause : (afterPrimitive m s).fcause = s.fcause := by rw [afterPrimitive_eq]
@[simp] theorem afterPrimitive_finfo : (afterPrimitive m s).finfo = s.finfo := by rw [afterPrimitive_eq]
@[simp] theorem afterPrimitive_flog : (afterPrimitive m s).flog = s.flog := by rw [afterPrimitive_eq]
@[simp] theorem afterPrimitive_rkind : (afterPrimitive m s).rkind = s.rkind := by rw [afterPrimitive_eq]
@[simp] theorem afterPrimitive_rdata : (afterPrimitive m s).rdata = s.rdata := by rw [afterPrimitive_eq]

end

end Sys2Proof.Machine
end

section
/-! PROOFS. The invariant (10_state.md R26, R29 to R37): at a reset, then what each operation needs to keep it. Within a step
it is spoken of for the state as it would be in READY, since `CTL` and the stop registers are written last. -/

namespace Sys2Proof.Machine

/-! ## At a reset -/

theorem boot_pin_present (unused : Bool) (q : PinState) : (if unused then none else some q).isSome = !unused := by
  cases unused <;> rfl

theorem boot_pin_output (unused : Bool) (l : Level) :
    ((if unused then none else some ⟨.output, l⟩ : Option PinState).all fun q => decide (q.mode = .output)) = true := by
  cases unused <;> rfl

/-- Settles O17: the lists have the length of `NUM_DIO`, and a pin has a state exactly when it is wired. -/
theorem resetMeetsTheInvariant : Obligations.ResetMeetsTheInvariant := fun p r env inputs k hp hc hext hcnt =>
  { params_legal := hp
    config_legal := hc
    edge_length := boot_edge_length ..
    edge_unused := fun i _ _ => boot_edgeLevel p r env inputs k i
    ext_length := hext
    cnt_width := hcnt
    stack_depth := Nat.zero_le _
    stack_frames := nofun
    cs_present := boot_pin_present ..
    rst_present := boot_pin_present ..
    rxtx_present := boot_pin_present ..
    cs_output := boot_pin_output ..
    rxtx_output := boot_pin_output ..
    ctl_legal := rfl
    stop_registers := rfl }

/-- Settles O18: the parameters, the configuration and the environment of `State.reset` are legal. -/
theorem theResetStateMeetsTheInvariant : Obligations.TheResetStateMeetsTheInvariant :=
  resetMeetsTheInvariant Params.atReset ResetInputs.atReset Env.atReset [] 0 (by decide) (by decide) (by decide) (by decide)

/-! ## Between the decoding of a command and the end of a micro-step -/

/-- `s`, were it READY. -/
def State.asReady (s : State) : State := { s with ctl := .ready }

section
variable {s t : State}

theorem State.Inv.asReady (h : s.Inv) (hrun : ¬s.stopped) : s.asReady.Inv :=
  { h with
    ctl_legal := rfl
    stop_registers := by
      have hstop := h.stop_registers
      cases hc : s.ctl with
      | faulted => exact absurd (.inl hc) hrun
      | halted => exact absurd (.inr hc) hrun
      | ready | exec | waiting =>
        simp only [stopRegistersLegal, hc] at hstop
        exact hstop }

theorem State.Inv.moved (h : s.Inv) : (moved s).Inv := by
  rw [moved_eq]
  exact { h with
    ext_length := (moved_ext_length s).trans h.ext_length
    cnt_width := moved_cnt_width s }

theorem asReady_record (h : s.asReady.Inv) (e : Event) : (record e s).asReady.Inv := { h with }

theorem asReady_pinDrive (h : s.asReady.Inv) {p : OutPin} (hw : outWired s p = true) (l : Level) :
    (pinDrive p l s).asReady.Inv := by
  cases p with
  | cs => exact { h with cs_present := hw.symm, cs_output := rfl }
  | rst => exact { h with rst_present := hw.symm }
  | rxtx => exact { h with rxtx_present := hw.symm, rxtx_output := rfl }

/-- R154: only the reset pin floats, so the other two stay outputs. -/
theorem asReady_pinFloat_rst (h : s.asReady.Inv) : (pinFloat .rst s).asReady.Inv :=
  { h with rst_present := Option.isSome_map.trans h.rst_present }

theorem asReady_probeDrive (h : s.asReady.Inv) (l : Level) : (probeDrive l s).asReady.Inv := by
  unfold probeDrive
  split
  next hw => exact asReady_pinDrive h hw l
  next => exact h

theorem asReady_lineRead (h : s.asReady.Inv) {i : Nat} (hw : dioWired s i = true) : (lineRead i s).asReady.Inv :=
  { h with
    edge_length := List.length_set.trans h.edge_length
    edge_unused := fun j hj hu => by
      have hne : j ≠ i := by
        rintro rfl
        exact absurd (hw.symm.trans hu) nofun
      have hlow : edgeLevel s j = false := h.edge_unused j hj hu
      show (s.edge.set i _).getD j false = false
      rw [List.getD_eq_getElem?_getD, List.getElem?_set_ne hne.symm, ← List.getD_eq_getElem?_getD]
      exact hlow }

/-- The primitive of a legal micro-step keeps the invariant: it is of a wired pin or line, and the `EDGE` of an unused line is
not written. -/
theorem asReady_afterPrimitive {m : Micro} (h : s.asReady.Inv) (hm : microLegal s m = true) :
    (afterPrimitive m s).asReady.Inv := by
  cases m with
  | tickNow | tickUntil | tickReached | read | exchange | probeCmd | probeDummy => exact asReady_record h _
  | drive p l => exact asReady_pinDrive h hm l
  | float p =>
    simp only [microLegal, Bool.and_eq_true, decide_eq_true_eq] at hm
    obtain ⟨rfl, -⟩ := hm
    exact asReady_pinFloat_rst h
  | scan r =>
    simp only [afterPrimitive]
    split
    next i hi =>
      obtain ⟨-, -, hw, -⟩ := nextWired_eq_some.1 hi
      exact asReady_lineRead h hw
    next => exact h
  | probeAssert | probeRelease => exact asReady_probeDrive h _
  | probeDecide | transportFatal => exact h

/-! ## The endings of a micro-step and of a decoding -/

theorem inv_of_ctl (h : s.asReady.Inv) {k : Ctl} (hk : k ≠ .faulted ∧ k ≠ .halted)
    (hl : ctlLegal { s with ctl := k } = true) : ({ s with ctl := k } : State).Inv :=
  { h with
    ctl_legal := hl
    stop_registers := by
      cases k with
      | faulted => exact absurd rfl hk.1
      | halted => exact absurd rfl hk.2
      | ready | exec | waiting => exact h.stop_registers }

theorem inv_respondDone (h : s.asReady.Inv) (d : Word) : (respondDone d s).Inv := { h with }

/-- R36, R232: the code of a fault is not NONE and at most 8. -/
theorem inv_raiseFault (h : s.asReady.Inv) {c : Cause} (hc : c ≠ .transportFault ∧ c ≠ .reportFatal) (w : Word) :
    (raiseFault c w s).Inv :=
  { h with
    ctl_legal := rfl
    stop_registers := by
      obtain ⟨-, hlog⟩ := Bool.and_eq_true_iff.1 h.stop_registers
      refine Bool.and_eq_true_iff.2 ⟨?_, hlog⟩
      cases c with
      | transportFault => exact absurd rfl hc.1
      | reportFatal => exact absurd rfl hc.2
      | illegalOpcode | reservedBits | illegalOperand | hretNoDispatch | hretUnbalanced | nestUnderflow | nestOverflow
      | dispatchDepth => rfl }

theorem inv_fatalHalt (h : s.asReady.Inv) {c : Cause} (hc : c = .transportFault ∨ c = .reportFatal) (loc : Word)
    (line : BitVec 24) : (fatalHalt c loc line s).Inv :=
  { h with
    ctl_legal := rfl
    stop_registers := by
      obtain rfl | rfl := hc
      · simp [stopRegistersLegal, causeCode]
      · simp [stopRegistersLegal, causeCode] }

theorem inv_dispatch (h : s.asReady.Inv) {f : Frame} (hf : frameLegal s f = true) (line : Nat) :
    (dispatch f line s).Inv := by
  have hdepth : s.dstack.length ≤ s.params.dispatchDepthMax := h.stack_depth
  by_cases hfull : s.dstack.length = s.params.dispatchDepthMax
  · rw [dispatch_eq_fault hfull]
    exact inv_raiseFault (c := .dispatchDepth) h ⟨nofun, nofun⟩ _
  · rw [dispatch_eq_respond hfull]
    exact { h with
      stack_depth := Nat.lt_of_le_of_ne hdepth hfull
      stack_frames := List.forall_mem_cons.2 ⟨hf, h.stack_frames⟩ }

/-! ## A micro-step and a decoding -/

/-- R182, R190, R193: a check goes on in its own mode, within the lines, with `NEST` = 0. -/
theorem Follows.legal {m m' : Micro} (h : Follows s m m') (hm : microLegal s m = true) :
    microLegal (afterPrimitive m s) m' = true := by
  cases h with
  | scan hi =>
    obtain ⟨-, hlt, -⟩ := nextWired_eq_some.1 hi
    simp only [microLegal, Bool.and_eq_true, decide_eq_true_eq] at hm
    simp [microLegal, hm, Nat.succ_le_of_lt hlt]
  | probeCmd | probeDummy | probeRelease | probeDecide =>
    simp only [microLegal, Bool.and_eq_true, decide_eq_true_eq] at hm
    simp [microLegal, hm]
  | exchangeFailed | probeCmdFailed | probeDummyFailed => rfl

theorem Dispatches.legal {m : Micro} {f : Frame} {line : Nat} (h : Dispatches s m f line) (hm : microLegal s m = true) :
    frameLegal (afterPrimitive m s) f = true := by
  cases h with
  | line hi =>
    obtain ⟨-, hlt, -⟩ := nextWired_eq_some.1 hi
    simp only [microLegal, Bool.and_eq_true, decide_eq_true_eq] at hm
    simp [frameLegal, hm, Nat.succ_le_of_lt hlt]
  | probe =>
    simp only [microLegal, Bool.and_eq_true, decide_eq_true_eq] at hm
    simp [frameLegal, hm]

theorem microStep_inv {m : Micro} (h : s.asReady.Inv) (hm : microLegal s m = true) (ht : t = microStep m s) : t.Inv := by
  have hprim := asReady_afterPrimitive h hm
  cases microStep_ends ht with
  | done d => exact inv_respondDone hprim d
  | next hf => exact inv_of_ctl hprim ⟨nofun, nofun⟩ (hf.legal hm)
  | dispatch hd => exact inv_dispatch hprim (hd.legal hm) _
  | halt => exact inv_fatalHalt hprim (.inl rfl) _ _

theorem waitSample_inv (h : s.asReady.Inv) (d : Word) : (waitSample d s).Inv := by
  have hread := asReady_record h (.cnt s.env.cnt)
  obtain ⟨-, e⟩ | ⟨-, e⟩ := waitSample_cases d s <;> rw [e]
  · exact inv_of_ctl hread ⟨nofun, nofun⟩ rfl
  · exact inv_respondDone hread 0

theorem pendingPrimitive_running {i : Instr} {k : Ctl} (h : pendingPrimitive i = some k) :
    (∃ d, k = .waiting d) ∨ ∃ m, k = .exec m := by
  cases i with
  | irqDisable | irqEnable | hret | fatal => cases h
  | tickWait d => cases h; exact .inl ⟨d, rfl⟩
  | setRst l => cases l <;> cases h <;> exact .inr ⟨_, rfl⟩
  | tickNow | tickUntil | tickReached | setCs | setRxtx | getLevel | spiXfer => cases h; exact .inr ⟨_, rfl⟩

/-- R31: what is under the top frame is a stack of legal frames. -/
theorem asReady_pop (h : s.asReady.Inv) {f : Frame} {rest : List Frame} (hd : s.dstack = f :: rest) :
    ({ s with dstack := rest } : State).asReady.Inv ∧ frameLegal s f = true := by
  have hdepth : s.dstack.length ≤ s.params.dispatchDepthMax := h.stack_depth
  have hframes : ∀ g ∈ s.dstack, frameLegal s g = true := h.stack_frames
  rw [hd] at hdepth hframes
  obtain ⟨hf, hrest⟩ := List.forall_mem_cons.1 hframes
  exact ⟨{ h with stack_depth := Nat.le_of_succ_le hdepth, stack_frames := hrest }, hf⟩

theorem exec_inv {i : Instr} (h : s.asReady.Inv) (he : exec i s = .next t) : t.Inv := by
  have hnest : ∀ n, ({ s with nest := n } : State).asReady.Inv := fun n => { h with }
  obtain ⟨k, hk, hl, rfl⟩ | ⟨d, rfl⟩ | ⟨c, w, hc, hc', rfl⟩ | ⟨-, -, rfl⟩ | ⟨-, -, -, rfl⟩ | ⟨-, -, m, hm, rfl⟩ |
    ⟨-, h0, r, rest, hd, rfl⟩ | ⟨-, -, rest, hd, rfl⟩ | ⟨loc, line, -, rfl⟩ := exec_cases he
  · refine inv_of_ctl h ?_ hl
    obtain ⟨d, rfl⟩ | ⟨m, rfl⟩ := pendingPrimitive_running hk <;> exact ⟨nofun, nofun⟩
  · exact inv_respondDone h d
  · exact inv_raiseFault h ⟨hc, hc'⟩ w
  · exact inv_respondDone (hnest _) 0
  · exact inv_respondDone (hnest _) 0
  · refine inv_of_ctl (hnest 0) ⟨nofun, nofun⟩ ?_
    obtain ⟨hmode, rfl⟩ | ⟨hmode, rfl⟩ := hm <;> simp [ctlLegal, microLegal, hmode]
  · obtain ⟨hrest, hf⟩ := asReady_pop h hd
    refine inv_of_ctl hrest ⟨nofun, nofun⟩ ?_
    simp only [frameLegal, Bool.and_eq_true, decide_eq_true_eq] at hf
    simp [ctlLegal, microLegal, h0, hf]
  · exact inv_respondDone (asReady_pop h hd).1 0
  · exact inv_fatalHalt h (.inr rfl) loc line

end

/-! ## A step -/

theorem requireZero_fault {w : Nat} {x : BitVec w} {d : Decoded} {e : Cause} (h : requireZero x d = .fault e) :
    e = .reservedBits ∨ d = .fault e := by
  unfold requireZero at h
  split at h
  · exact .inr h
  · exact .inl (Decoded.fault.inj h).symm

/-- R105: the causes that decoding can raise. -/
theorem decode_fault_cause {n : Nat} {cmd arg : Word} {e : Cause} (h : decode n cmd arg = .fault e) :
    e = .illegalOpcode ∨ e = .reservedBits ∨ e = .illegalOperand := by
  by_cases hlisted : cmd.extractLsb' 24 8 ∈ listedOpcodes
  case neg => exact .inl (Decoded.fault.inj (decode_reserved (n := n) (arg := arg) hlisted ▸ h)).symm
  refine .inr ?_
  obtain hop | hop | hop | hop | hop := mem_listedOpcodes.1 hlisted
  · obtain ⟨i, hd, -⟩ := decode_fieldless (n := n) (arg := arg) rfl hop
    rw [hd] at h
    exact .inl ((requireZero_fault h).resolve_right nofun)
  · refine (requireZero_fault (decode_pinSet hop ▸ h)).imp_right fun h => ?_
    unfold decodePinSet at h
    split_ifs at h
    exact (Decoded.fault.inj h).symm
  · refine (requireZero_fault (decode_getLevel hop ▸ h)).elim .inl fun h => ?_
    refine (requireZero_fault h).imp_right fun h => ?_
    unfold decodeGetLevel at h
    split at h
    next => cases h
    next => exact (Decoded.fault.inj h).symm
  · rw [decode_spiXfer hop] at h
    exact .inl ((requireZero_fault h).resolve_right nofun)
  · cases (decode_fatal hop).symm.trans h

theorem State.Inv.microLegal {s : State} (h : s.Inv) {m : Micro} (hc : s.ctl = .exec m) : microLegal s m = true := by
  simpa only [ctlLegal, hc] using h.ctl_legal

theorem not_stopped_of_step {s t : State} (hr : pendingReset s = none) (h : step s = .next t) : ¬s.stopped := by
  obtain ⟨hp, hc, -⟩ := step_cases hr h
  rw [step_of_no_reset hp hc hr] at h
  rintro (hctl | hctl)
  · simp [blockStep_faulted (s := moved s) (by simpa using hctl)] at h
  · simp [blockStep_halted (s := moved s) (by simpa using hctl)] at h

/-- Settles O43: a reset gives the invariant; else the block was not stopped, the environment's moves keep the invariant, and
so does each of the four kinds of step. -/
theorem everyStepKeepsTheInvariant : Obligations.EveryStepKeepsTheInvariant := by
  intro s t hs h
  cases hr : pendingReset s with
  | some r =>
    obtain ⟨-, -, hc, rfl⟩ := step_reset hr h
    refine resetMeetsTheInvariant _ r _ _ _ hs.moved.params_legal ?_ hs.moved.ext_length hs.moved.cnt_width
    rwa [moved_params]
  | none =>
    have hrun : ¬(moved s).stopped := by
      simpa only [State.stopped, moved_ctl] using not_stopped_of_step hr h
    have hready := hs.moved.asReady hrun
    obtain ⟨-, -, ⟨-, -, rfl⟩ | ⟨c, rest, i, -, -, -, he⟩ | ⟨c, rest, e, -, -, hd, rfl⟩ | ⟨m, hc, ht⟩ | ⟨d, -, rfl⟩⟩ :=
      step_cases hr h
    · exact hs.moved
    · exact exec_inv (s := { moved s with host := rest }) { hready with } he
    · refine inv_raiseFault (s := { moved s with host := rest }) { hready with } ?_ c.cmd
      obtain rfl | rfl | rfl := decode_fault_cause hd <;> exact ⟨nofun, nofun⟩
    · exact microStep_inv hready (hs.moved.microLegal (by rwa [moved_ctl])) ht
    · exact waitSample_inv hready d

/-- R33: a pin whose state is there exactly when it is wired has none when it is unused. -/
theorem absent_of_unused {unused : Bool} {q : Option PinState} (hp : q.isSome = !unused) (hu : unused = true) : q = none := by
  simpa [hu] using hp

/-- R274. -/
theorem output_of_wired {unused : Bool} {q : Option PinState} (hp : q.isSome = !unused)
    (ho : (q.all fun q => decide (q.mode = .output)) = true) (hw : unused = false) : ∃ p, q = some p ∧ p.mode = .output := by
  obtain ⟨p, rfl⟩ := Option.isSome_iff_exists.1 (hp.trans (by rw [hw]; rfl))
  exact ⟨p, rfl, of_decide_eq_true ho⟩

/-- Settles O56: the invariant after the step says it of each pin. -/
theorem chipSelectStaysAnOutput : Obligations.ChipSelectStaysAnOutput := by
  intro s t hs h
  have ht := everyStepKeepsTheInvariant s t hs h
  exact ⟨output_of_wired ht.cs_present ht.cs_output, output_of_wired ht.rxtx_present ht.rxtx_output,
    absent_of_unused ht.cs_present, absent_of_unused ht.rst_present, absent_of_unused ht.rxtx_present⟩

end Sys2Proof.Machine
end

section
/-! PROOFS. Who writes `EDGE`, `NEST`, the pins and the environment (10_state.md R27, R29, R32, 20_memory.md R63, R67), and
that nothing is dispatched while the coordinator is deferred (43_interrupt_coordinator.md R188). -/

namespace Sys2Proof.Machine

/-! ## `EDGE` -/

theorem sampleLine_edge (i : Nat) (s : State) : (sampleLine i s).edge = s.edge.set i (extLevel s.env.ext (.dio i)) := by
  obtain ⟨hl, e⟩ | ⟨hl, -, e⟩ | ⟨hl, -, e⟩ := sampleLine_cases i s <;> rw [e, hl]
  · exact (edge_set_edgeLevel s i).symm
  · rfl
  · exact dispatch_edge ..

/-- Settles O47: `step_edge_cases`; the sampled line is the next wired one, and its level is the one read. -/
theorem onlyTheScanWritesEdge : Obligations.OnlyTheScanWritesEdge := by
  intro s t hr h hne
  obtain he | ⟨r, i, hc, hn, rfl⟩ := step_edge_cases hr h
  · exact absurd he hne
  obtain ⟨hri, hi, hw, -⟩ := nextWired_eq_some.1 hn
  exact ⟨r, i, hc, hri, hi, hw, by rw [sampleLine_edge, moved_edge]; rfl⟩

/-! ## `NEST` -/

section
variable {s t u : State}

theorem nestSaturating_of_ne {n : BitVec 32} (h : nestSaturating n ≠ n) : nestSaturating n = n + 1 :=
  if_neg fun htop => h (if_pos htop)

theorem fatalHalt_nest_of_ne {c : Cause} {loc : Word} {line : BitVec 24} (hn : u.nest = s.nest)
    (hne : (fatalHalt c loc line u).nest ≠ s.nest) : (fatalHalt c loc line u).nest = s.nest + 1 := by
  rw [← hn] at hne ⊢
  exact nestSaturating_of_ne hne

theorem exec_nest {i : Instr} (he : exec i s = .next t) (hne : t.nest ≠ s.nest) :
    (i = .irqDisable ∧ t.nest = s.nest + 1 ∨ i = .irqEnable ∧ s.nest ≠ 0 ∧ t.nest = s.nest - 1) ∨
      t.ctl = .halted ∧ t.nest = s.nest + 1 := by
  obtain ⟨_, -, -, rfl⟩ | ⟨_, rfl⟩ | ⟨_, _, -, -, rfl⟩ | ⟨hi, -, rfl⟩ | ⟨hi, h0, -, rfl⟩ | ⟨hi, h1, _, -, rfl⟩ |
    ⟨-, -, _, _, -, rfl⟩ | ⟨-, -, _, -, rfl⟩ | ⟨_, _, -, rfl⟩ := exec_cases he
  · exact absurd rfl hne
  · exact absurd rfl hne
  · exact absurd rfl hne
  · exact .inl (.inl ⟨hi, rfl⟩)
  · exact .inl (.inr ⟨hi, h0, rfl⟩)
  · exact .inl (.inr ⟨hi, by simp [h1], by simp [h1]⟩)
  · exact absurd rfl hne
  · exact absurd rfl hne
  · exact .inr ⟨rfl, fatalHalt_nest_of_ne rfl hne⟩

@[simp] theorem dispatch_nest (f : Frame) (line : Nat) (s : State) : (dispatch f line s).nest = s.nest := by
  unfold dispatch; split <;> rfl

@[simp] theorem dispatch_pins (f : Frame) (line : Nat) (s : State) : (dispatch f line s).pins = s.pins := by
  unfold dispatch; split <;> rfl

@[simp] theorem waitSample_nest (d : Word) (s : State) : (waitSample d s).nest = s.nest := by
  unfold waitSample; split <;> rfl

@[simp] theorem waitSample_pins (d : Word) (s : State) : (waitSample d s).pins = s.pins := by
  unfold waitSample; split <;> rfl

/-- Of the micro-steps only the fatal path writes `NEST`. -/
theorem microStep_nest {m : Micro} (ht : t = microStep m s) (hne : t.nest ≠ s.nest) :
    t.ctl = .halted ∧ t.nest = s.nest + 1 := by
  cases microStep_ends ht with
  | done | next | dispatch => simp at hne
  | halt => exact ⟨rfl, fatalHalt_nest_of_ne (afterPrimitive_nest m s) hne⟩

end

/-- Settles O48: a decoding (`exec_nest`) or a micro-step (`microStep_nest`). -/
theorem onlyTheseWriteNest : Obligations.OnlyTheseWriteNest := by
  intro s t hr h hne
  obtain ⟨-, -, ⟨-, -, rfl⟩ | ⟨c, rest, i, hc, hh, hd, he⟩ | ⟨c, rest, e, -, -, -, rfl⟩ | ⟨m, -, ht⟩ | ⟨d, -, rfl⟩⟩ :=
    step_cases hr h
  · simp at hne
  · have hwrite := exec_nest he (by simpa using hne)
    simp only [moved_nest] at hwrite
    refine hwrite.imp_left fun hw => ⟨c, rest, hc, hh, ?_⟩
    exact hw.imp (fun ⟨hi, hn⟩ => ⟨hi ▸ hd, hn⟩) fun ⟨hi, hn⟩ => ⟨hi ▸ hd, hn⟩
  · simp at hne
  · have hhalt := microStep_nest ht (by simpa using hne)
    rw [moved_nest] at hhalt
    exact .inr hhalt
  · simp at hne

/-- R185, R188, R196: a check runs with `NEST` = 0. -/
theorem State.Inv.nest_of_check {s : State} {m : Micro} (h : s.Inv) (hc : s.ctl = .exec m) (hm : m.ofCheck = true) :
    s.nest = 0 := by
  have hlegal := h.microLegal hc
  cases m with
  | scan | probeAssert | probeCmd | probeDummy | probeRelease | probeDecide =>
    simp only [Machine.microLegal, Bool.and_eq_true, decide_eq_true_eq] at hlegal
    simp only [hlegal]
  | tickNow | tickUntil | tickReached | drive | float | read | exchange | transportFatal => cases hm

/-- Settles O44: a DISPATCH is of a check, which runs with `NEST` = 0. -/
theorem noDispatchWhileDeferred : Obligations.NoDispatchWhileDeferred := by
  intro s t hinv hr hne h
  obtain hq | ⟨_, -, ⟨r, hc, -⟩ | ⟨st, hc, -⟩⟩ := step_quiet_or_dispatched hr h
  · exact hq
  · exact absurd (hinv.nest_of_check hc rfl) hne
  · exact absurd (hinv.nest_of_check hc rfl) hne

/-! ## The environment, the configuration and the command stream -/

/-- R63, R65: the host's stream after a step. -/
def hostAfter (s : State) : List HostCmd := if s.ctl = .ready then s.host.tail else s.host

/-- What a step without a reset leaves as the environment's moves and the host's issuing made it. -/
theorem step_kept {s t : State} (hr : pendingReset s = none) (h : step s = .next t) :
    Kept { moved s with host := hostAfter s } t := by
  have busy : ∀ {k}, s.ctl = k → k ≠ .ready → { moved s with host := hostAfter s } = moved s := by
    intro k hc hk
    rw [hostAfter, if_neg (hc ▸ hk), ← moved_host]
  obtain ⟨-, -, ⟨hc, hh, rfl⟩ | ⟨c, rest, i, hc, hh, -, he⟩ | ⟨c, rest, e, hc, hh, -, rfl⟩ | ⟨m, hc, rfl⟩ | ⟨d, hc, rfl⟩⟩ :=
    step_cases hr h
  · exact ⟨rfl, rfl, rfl, by simp [hostAfter, hh], rfl, rfl⟩
  · obtain ⟨hkept, -⟩ := exec_kept he
    simpa [hostAfter, hc, hh] using hkept
  · exact ⟨rfl, rfl, rfl, by simp [hostAfter, hc, hh], rfl, rfl⟩
  · rw [busy hc nofun]
    exact microStep_kept m (moved s)
  · rw [busy hc nofun]
    exact waitSample_kept d (moved s)

/-- Settles O52: a reset latches its configuration and keeps the rest; any other step is `step_kept`. -/
theorem configurationAndEnvironmentAreReadOnly : Obligations.ConfigurationAndEnvironmentAreReadOnly := by
  intro s t h
  cases hr : pendingReset s with
  | some r =>
    obtain ⟨-, -, -, rfl⟩ := step_reset hr h
    exact ⟨moved_params s, rfl, nofun, fun _ hr' => Option.some.inj hr' ▸ rfl⟩
  | none =>
    have hkept := step_kept hr h
    exact ⟨hkept.params.trans (moved_params s), hkept.env, fun _ => hkept.cfg.trans (moved_cfg s), nofun⟩

/-- Settles O54: `step_kept`, by what `hostAfter` is. -/
theorem hostIsBlockedWhileBusy : Obligations.HostIsBlockedWhileBusy := by
  intro s t hr h
  have hhost : t.host = hostAfter s := (step_kept hr h).host
  exact ⟨fun hc => hhost.trans (if_neg hc), fun hc => hhost.trans (if_pos hc)⟩

/-! ## The pins -/

section
variable {s t u : State}

theorem exec_pins {i : Instr} (he : exec i s = .next t) : t.pins = s.pins := by
  obtain ⟨_, _, _, rfl⟩ | ⟨_, rfl⟩ | ⟨_, _, _, _, rfl⟩ | ⟨_, _, rfl⟩ | ⟨_, _, _, rfl⟩ | ⟨_, _, _, _, rfl⟩ |
    ⟨_, _, _, _, _, rfl⟩ | ⟨_, _, _, _, rfl⟩ | ⟨_, _, _, rfl⟩ := exec_cases he <;> rfl

theorem MicroEnds.pins {m : Micro} (h : MicroEnds s m u t) : t.pins = u.pins := by
  cases h with
  | done | next | halt => rfl
  | dispatch => exact dispatch_pins ..

/-- R32: a step leaves the pins alone, or they are as the primitive of a micro-step leaves them. -/
theorem step_pins (hr : pendingReset s = none) (h : step s = .next t) :
    t.pins = s.pins ∨ ∃ m, s.ctl = .exec m ∧ t.pins = (afterPrimitive m (moved s)).pins := by
  obtain ⟨-, -, ⟨-, -, rfl⟩ | ⟨c, rest, i, -, -, -, he⟩ | ⟨c, rest, e, -, -, -, rfl⟩ | ⟨m, hc, ht⟩ | ⟨d, -, rfl⟩⟩ :=
    step_cases hr h
  · exact .inl (moved_pins s)
  · exact .inl ((exec_pins he).trans (moved_pins s))
  · exact .inl (moved_pins s)
  · exact .inr ⟨m, hc, (microStep_ends ht).pins⟩
  · exact .inl ((waitSample_pins d _).trans (moved_pins s))

theorem unused_of_outWired {p : OutPin} (h : outWired s p = true) : (outCfg s.cfg p).unused = false := by
  simpa [outWired] using h

/-- R193: the chip-select drives of the probe. -/
theorem probeDrive_pins (l : Level) (s : State) :
    (probeDrive l s).pins = s.pins ∨
      s.cfg.cs.unused = false ∧ (probeDrive l s).pins = { s.pins with cs := some ⟨.output, l⟩ } := by
  unfold probeDrive
  split
  next hw => exact .inr ⟨unused_of_outWired hw, rfl⟩
  next => exact .inl rfl

end

/-- Settles O57: the primitives that write a pin are the drive and the float of a command, of a wired pin by the invariant,
and the probe's drives of a wired chip-select. -/
theorem onlyTheseWritePins : Obligations.OnlyTheseWritePins := by
  intro s t hinv hr h hne
  obtain hp | ⟨m, hc, hp⟩ := step_pins hr h
  · exact absurd hp hne
  have hlegal := hinv.microLegal hc
  have hsame : (afterPrimitive m (moved s)).pins ≠ s.pins := hp ▸ hne
  cases m with
  | drive p l => exact .inl ⟨p, l, hc, unused_of_outWired hlegal, by simpa [afterPrimitive] using hp⟩
  | float p =>
    simp only [microLegal, Bool.and_eq_true, decide_eq_true_eq] at hlegal
    obtain ⟨rfl, hw⟩ := hlegal
    obtain ⟨q, hq⟩ := Option.isSome_iff_exists.1 (hinv.rst_present.trans hw)
    exact .inr (.inl ⟨q, hc, unused_of_outWired hw, hq, by simpa [afterPrimitive, PinBank.get, PinBank.set, hq] using hp⟩)
  | probeAssert =>
    obtain e | ⟨hw, e⟩ := probeDrive_pins (moved s).params.csActive (moved s)
    · exact absurd (e.trans (moved_pins s)) hsame
    · exact .inr (.inr ⟨by simpa using hw, .inl ⟨hc, by simpa using hp.trans e⟩⟩)
  | probeRelease st =>
    obtain e | ⟨hw, e⟩ := probeDrive_pins (!(moved s).params.csActive) (moved s)
    · exact absurd (e.trans (moved_pins s)) hsame
    · exact .inr (.inr ⟨by simpa using hw, .inr ⟨⟨st, hc⟩, by simpa using hp.trans e⟩⟩)
  | scan r =>
    refine absurd ?_ hsame
    simp only [afterPrimitive]
    split <;> exact moved_pins s
  | tickNow | tickUntil | tickReached | read | exchange | probeCmd | probeDummy | probeDecide | transportFatal =>
    exact absurd (moved_pins s) hsame

end Sys2Proof.Machine
end

section
/-! PROOFS. What a step gives (20_memory.md R66, R79, 30_encoding.md R95, 10_state.md R31, R36, R37): a step that is not idle
records at most one primitive, and then ends in one of five ways. -/

namespace Sys2Proof.Machine

/-! ## A step in two parts -/

/-- An event of a pin is of a pin that is wired (R24, R152). -/
def Event.ofWiredPin (s : State) : Event → Bool
  | .drive p _ | .float p | .read (.out p) _ => outWired s p
  | .read (.dio i) _ => dioWired s i
  | .cnt _ | .xfer _ _ _ | .dispatch _ | .done _ | .log _ _ | .fault _ => true

/-- R196, R238: the step from `s` issues an HRET that returns from a handler. -/
def Returns (s : State) : Prop :=
  s.nest = 0 ∧ s.dstack ≠ [] ∧ s.ctl = .ready ∧
    ∃ c rest, s.host = c :: rest ∧ decode s.params.numDio c.cmd c.arg = .instr .hret

/-- What a fault leaves as it was, but for `EDGE` (R233). -/
structure SameCore (s t : State) : Prop where
  nest : t.nest = s.nest
  dstack : t.dstack = s.dstack
  pins : t.pins = s.pins

/-- The step from `s` has come to `u` and has yet to end: the response and stop registers are as they were, `DSTACK` is,
unless a handler returns, and of events there is at most a primitive. -/
structure Underway (s u : State) : Prop where
  rkind : u.rkind = s.rkind
  rdata : u.rdata = s.rdata
  fcause : u.fcause = s.fcause
  finfo : u.finfo = s.finfo
  flog : u.flog = s.flog
  dstack : u.dstack = s.dstack ∨ Returns s ∧ ∃ f, s.dstack = f :: u.dstack
  history : ∃ prims, u.history = prims ++ s.history ∧ prims.length ≤ 1 ∧ (s.ctl = .ready → prims = []) ∧
    ∀ e ∈ prims, e.isPrimitive = true ∧ (s.Inv → e.ofWiredPin s = true)

/-- How a step from `s` that has come to `u` ends. -/
inductive StepEnds (s u : State) : State → Prop
  | done (d : Word) : StepEnds s u (respondDone d u)
  | running {k : Ctl} (h : (∃ d, k = .waiting d) ∨ ∃ m, k = .exec m) : StepEnds s u { u with ctl := k }
  | dispatch (f : Frame) (line : Nat) (h : SameCore s u) :
      StepEnds s u (respondDispatch line { u with dstack := f :: u.dstack })
  | fault {c : Cause} (w : Word) (hc : c ≠ .transportFault ∧ c ≠ .reportFatal) (h : SameCore s u) :
      StepEnds s u (raiseFault c w u)
  | halt {c : Cause} {loc : Word} {line : BitVec 24}
      (h : c = .transportFault ∧ loc = fatalLocTransport ∧ line = 0 ∨ c = .reportFatal) :
      StepEnds s u (fatalHalt c loc line u)

section
variable {s t u : State}

theorem dispatch_ends (h : SameCore s u) (f : Frame) (line : Nat) : StepEnds s u (dispatch f line u) := by
  by_cases hfull : u.dstack.length = u.params.dispatchDepthMax
  · rw [dispatch_eq_fault hfull]
    exact .fault _ ⟨nofun, nofun⟩ h
  · rw [dispatch_eq_respond hfull]
    exact .dispatch f line h

/-- A decoding writes `NEST` or pops `DSTACK` before it ends. -/
theorem exec_ends {i : Instr} (hs : SameCore s u) (he : exec i u = .next t) :
    ∃ n ds, (ds = u.dstack ∨ i = .hret ∧ u.nest = 0 ∧ ∃ f, u.dstack = f :: ds) ∧
      StepEnds s { u with nest := n, dstack := ds } t := by
  obtain ⟨k, hk, -, rfl⟩ | ⟨d, rfl⟩ | ⟨c, w, hc, hc', rfl⟩ | ⟨-, -, rfl⟩ | ⟨-, -, -, rfl⟩ | ⟨-, -, m, -, rfl⟩ |
    ⟨hi, h0, r, rest, hd, rfl⟩ | ⟨hi, h0, rest, hd, rfl⟩ | ⟨loc, line, -, rfl⟩ := exec_cases he
  · exact ⟨u.nest, u.dstack, .inl rfl, .running (pendingPrimitive_running hk)⟩
  · exact ⟨u.nest, u.dstack, .inl rfl, .done d⟩
  · exact ⟨u.nest, u.dstack, .inl rfl, .fault w ⟨hc, hc'⟩ hs⟩
  · exact ⟨_, u.dstack, .inl rfl, .done 0⟩
  · exact ⟨_, u.dstack, .inl rfl, .done 0⟩
  · exact ⟨0, u.dstack, .inl rfl, .running (.inr ⟨m, rfl⟩)⟩
  · exact ⟨u.nest, rest, .inr ⟨hi, h0, _, hd⟩, .running (.inr ⟨_, rfl⟩)⟩
  · exact ⟨u.nest, rest, .inr ⟨hi, h0, _, hd⟩, .done 0⟩
  · exact ⟨u.nest, u.dstack, .inl rfl, .halt (.inr rfl)⟩

/-- R190, R193: a dispatch is of a scan or of the probe's decision, which writes no pin. -/
theorem Dispatches.sameCore {m : Micro} {f : Frame} {line : Nat} (h : Dispatches s m f line) :
    SameCore s (afterPrimitive m s) := by
  refine ⟨afterPrimitive_nest m s, afterPrimitive_dstack m s, ?_⟩
  cases h with
  | line hi => simp only [afterPrimitive, hi]; rfl
  | probe => rfl

theorem SameCore.of_moved (h : SameCore (moved s) u) : SameCore s u :=
  ⟨h.nest.trans (moved_nest s), h.dstack.trans (moved_dstack s), h.pins.trans (moved_pins s)⟩

theorem microStep_stepEnds {m : Micro} (ht : t = microStep m (moved s)) :
    StepEnds s (afterPrimitive m (moved s)) t := by
  cases microStep_ends ht with
  | done d => exact .done d
  | next => exact .running (.inr ⟨_, rfl⟩)
  | dispatch h => exact dispatch_ends h.sameCore.of_moved ..
  | halt => exact .halt (.inl ⟨rfl, rfl, rfl⟩)

theorem probeDrive_history (l : Level) (s : State) :
    (probeDrive l s).history = s.history ∨
      (probeDrive l s).history = .drive .cs l :: s.history ∧ outWired s .cs = true := by
  unfold probeDrive
  split
  next hw => exact .inr ⟨rfl, hw⟩
  next => exact .inl rfl

/-- R66: a micro-step does at most one primitive, of a wired pin when the micro-step is legal. -/
theorem afterPrimitive_history (m : Micro) (s : State) :
    (afterPrimitive m s).history = s.history ∨
      ∃ e, (afterPrimitive m s).history = e :: s.history ∧ e.isPrimitive = true ∧
        (microLegal s m = true → e.ofWiredPin s = true) := by
  cases m with
  | tickNow | tickUntil | tickReached | exchange | probeCmd | probeDummy => exact .inr ⟨_, rfl, rfl, fun _ => rfl⟩
  | drive p l => exact .inr ⟨_, rfl, rfl, id⟩
  | float p => exact .inr ⟨_, rfl, rfl, fun h => (Bool.and_eq_true_iff.1 h).2⟩
  | read p =>
    refine .inr ⟨_, rfl, rfl, ?_⟩
    cases p with
    | out q => exact fun h => (Bool.and_eq_true_iff.1 h).1
    | dio i => exact id
  | scan r =>
    simp only [afterPrimitive]
    split
    next i hi =>
      obtain ⟨-, -, hw, -⟩ := nextWired_eq_some.1 hi
      exact .inr ⟨_, rfl, rfl, fun _ => hw⟩
    next => exact .inl rfl
  | probeAssert | probeRelease =>
    exact (probeDrive_history _ s).imp_right fun ⟨h, hw⟩ => ⟨_, h, rfl, fun _ => hw⟩
  | probeDecide | transportFatal => exact .inl rfl

@[simp] theorem ofWiredPin_moved (e : Event) (s : State) : e.ofWiredPin (moved s) = e.ofWiredPin s := by
  cases e with
  | read p l => cases p <;> simp [Event.ofWiredPin, outWired]
  | drive | float | cnt | xfer | dispatch | done | log | fault => simp [Event.ofWiredPin, outWired]

/-- After a decoding has begun, or the primitive of a micro-step, the step is under way. -/
theorem Underway.of_micro {m : Micro} (hc : s.ctl = .exec m) : Underway s (afterPrimitive m (moved s)) where
  rkind := by simp
  rdata := by simp
  fcause := by simp
  finfo := by simp
  flog := by simp
  dstack := .inl (by simp)
  history := by
    obtain he | ⟨e, he, hprim, hw⟩ := afterPrimitive_history m (moved s) <;> rw [moved_history] at he
    · exact ⟨[], he, Nat.zero_le _, fun _ => rfl, nofun⟩
    · refine ⟨[e], he, Nat.le_refl _, by simp [hc], List.forall_mem_singleton.2 ⟨hprim, fun hinv => ?_⟩⟩
      exact (ofWiredPin_moved e s).symm.trans (hw (hinv.moved.microLegal ((moved_ctl s).trans hc)))

theorem Underway.of_sample {d : Word} (hc : s.ctl = .waiting d) : Underway s (readCounter (moved s)) where
  rkind := by simp
  rdata := by simp
  fcause := by simp
  finfo := by simp
  flog := by simp
  dstack := .inl (by simp)
  history := ⟨[.cnt (moved s).env.cnt], by simp, Nat.le_refl _, by simp [hc], by simp [Event.isPrimitive, Event.ofWiredPin]⟩

theorem Underway.of_decoding {n : BitVec 32} {ds : List Frame} {rest : List HostCmd}
    (hds : ds = s.dstack ∨ Returns s ∧ ∃ f, s.dstack = f :: ds) :
    Underway s { moved s with host := rest, nest := n, dstack := ds } where
  rkind := moved_rkind s
  rdata := moved_rdata s
  fcause := moved_fcause s
  finfo := moved_finfo s
  flog := moved_flog s
  dstack := hds
  history := ⟨[], moved_history s, Nat.zero_le _, fun _ => rfl, nofun⟩

/-- A step without a reset waits for the host, or comes to some state and ends. -/
theorem step_ends (hr : pendingReset s = none) (h : step s = .next t) :
    (s.ctl = .ready ∧ s.host = [] ∧ t = moved s) ∨ ∃ u, Underway s u ∧ StepEnds s u t := by
  obtain ⟨-, -, hidle | ⟨c, rest, i, hc, hh, hd, he⟩ | ⟨c, rest, e, -, -, hd, rfl⟩ | ⟨m, hc, ht⟩ | ⟨d, hc, rfl⟩⟩ :=
    step_cases hr h
  · exact .inl hidle
  · have hcore : SameCore s { moved s with host := rest } := ⟨moved_nest s, moved_dstack s, moved_pins s⟩
    obtain ⟨n, ds, hds, hends⟩ := exec_ends hcore he
    refine .inr ⟨_, .of_decoding ?_, hends⟩
    simp only [moved_dstack, moved_nest] at hds
    refine hds.imp_right ?_
    rintro ⟨rfl, h0, f, hpop⟩
    exact ⟨⟨h0, by simp [hpop], hc, c, rest, hh, hd⟩, f, hpop⟩
  · refine .inr ⟨{ moved s with host := rest }, .of_decoding (n := (moved s).nest) (.inl (moved_dstack s)), ?_⟩
    refine .fault c.cmd ?_ ⟨moved_nest s, moved_dstack s, moved_pins s⟩
    obtain rfl | rfl | rfl := decode_fault_cause hd <;> exact ⟨nofun, nofun⟩
  · exact .inr ⟨_, .of_micro hc, microStep_stepEnds ht⟩
  · refine .inr ⟨_, .of_sample hc, ?_⟩
    obtain ⟨-, e⟩ | ⟨-, e⟩ := waitSample_cases d (moved s) <;> rw [e]
    · exact .running (.inl ⟨d, rfl⟩)
    · exact .done 0

end

/-! ## The stop registers -/

/-- Settles O53: a running ending and a response leave the stop registers, a fault and a halt write them. -/
theorem stopRegistersAreWrittenOnce : Obligations.StopRegistersAreWrittenOnce := by
  intro s t _ hr h
  refine ⟨not_stopped_of_step hr h, ?_⟩
  obtain ⟨hc, -, rfl⟩ | ⟨u, hu, hends⟩ := step_ends hr h
  · simp [hc]
  have hsame : u.fcause = s.fcause ∧ u.finfo = s.finfo ∧ u.flog = s.flog := ⟨hu.fcause, hu.finfo, hu.flog⟩
  cases hends with
  | done d => exact ⟨fun _ => hsame, nofun, nofun⟩
  | running hk => exact ⟨fun _ => hsame, by rintro rfl; simp at hk, by rintro rfl; simp at hk⟩
  | dispatch => exact ⟨fun _ => hsame, nofun, nofun⟩
  | @fault c w hc hcore =>
    exact ⟨fun hrun => absurd (.inl rfl) hrun,
      fun _ => ⟨hu.flog, hcore.nest, hcore.dstack, hcore.pins, c, rfl, hc.1, hc.2, rfl⟩, nofun⟩
  | halt hc =>
    refine ⟨fun hrun => absurd (.inr rfl) hrun, nofun, fun _ => ⟨rfl, rfl, ?_⟩⟩
    obtain ⟨rfl, rfl, rfl⟩ | rfl := hc
    · exact .inl ⟨rfl, rfl, rfl⟩
    · exact .inr rfl

/-! ## Responses and `DSTACK` -/

theorem Event.not_response_of_primitive {e : Event} (h : e.isPrimitive = true) : e.isResponse = false := by
  cases e with
  | dispatch | done | log | fault => cases h
  | drive | float | read | cnt | xfer => rfl

/-- The events of a step, in two parts: the ending's, and before them those of `Underway.history`. -/
theorem new_eq_of_history {s t u : State} {new last prims : List Event} (hnew : t.history = new ++ s.history)
    (hlast : t.history = last ++ u.history) (hprims : u.history = prims ++ s.history) : new = last ++ prims := by
  refine List.append_cancel_right (bs := s.history) ?_
  rw [← hnew, hlast, hprims, List.append_assoc]

/-- Settles O59: a step ends READY by one of the two responses, and its primitive is none. -/
theorem everyCommandIsAnsweredOnce : Obligations.EveryCommandIsAnsweredOnce := by
  intro s t new hr h hnew
  obtain ⟨hc, hh, rfl⟩ | ⟨u, hu, hends⟩ := step_ends hr h
  · have hnone : new = [] := List.self_eq_append_left.1 ((moved_history s).symm.trans hnew)
    exact ⟨fun _ => .inl ⟨hc, hh, hnone⟩, fun hne => absurd ((moved_ctl s).trans hc) hne⟩
  obtain ⟨prims, hprims, -, -, hprim⟩ := hu.history
  have hquiet : ∀ e ∈ prims, e.isResponse = false := fun e he => e.not_response_of_primitive (hprim e he).1
  cases hends with
  | done d =>
    obtain rfl := new_eq_of_history (last := [.done d]) hnew rfl hprims
    exact ⟨fun _ => .inr ⟨_, prims, rfl, hquiet, .inl ⟨rfl, rfl⟩⟩, fun hne => absurd rfl hne⟩
  | dispatch f line =>
    obtain rfl := new_eq_of_history (last := [.dispatch line]) hnew rfl hprims
    exact ⟨fun _ => .inr ⟨_, prims, rfl, hquiet, .inr ⟨line, rfl, rfl, rfl⟩⟩, fun hne => absurd rfl hne⟩
  | running hk =>
    obtain rfl := new_eq_of_history (last := []) hnew rfl hprims
    refine ⟨?_, fun _ => ⟨hquiet, hu.rkind, hu.rdata⟩⟩
    rintro rfl
    simp at hk
  | @fault c w =>
    obtain rfl := new_eq_of_history (last := [.fault c]) hnew rfl hprims
    exact ⟨nofun, fun _ => ⟨List.forall_mem_cons.2 ⟨rfl, hquiet⟩, hu.rkind, hu.rdata⟩⟩
  | @halt c loc line =>
    obtain rfl := new_eq_of_history (last := [.log loc line]) hnew rfl hprims
    exact ⟨nofun, fun _ => ⟨List.forall_mem_cons.2 ⟨rfl, hquiet⟩, hu.rkind, hu.rdata⟩⟩

section
variable {s t u : State}

/-- What an ending records is no primitive; it is a DISPATCH exactly when a frame is pushed (R238, R239). -/
theorem StepEnds.last (h : StepEnds s u t) :
    ∃ last, t.history = last ++ u.history ∧ (∀ e ∈ last, e.isPrimitive = false) ∧
      ((∃ f line, t.dstack = f :: s.dstack ∧ Event.dispatch line ∈ last) ∨
        t.dstack = u.dstack ∧ ∀ line, Event.dispatch line ∉ last) := by
  cases h with
  | done d => exact ⟨[.done d], rfl, by simp [Event.isPrimitive], .inr ⟨rfl, by simp⟩⟩
  | running => exact ⟨[], rfl, nofun, .inr ⟨rfl, nofun⟩⟩
  | dispatch f line hcore =>
    exact ⟨[.dispatch line], rfl, by simp [Event.isPrimitive], .inl ⟨f, line, congrArg _ hcore.dstack, by simp⟩⟩
  | @fault c => exact ⟨[.fault c], rfl, by simp [Event.isPrimitive], .inr ⟨rfl, by simp⟩⟩
  | @halt c loc line => exact ⟨[.log loc line], rfl, by simp [Event.isPrimitive], .inr ⟨rfl, by simp⟩⟩

/-- What a step does to `DSTACK`, and whether it dispatches. -/
theorem step_dstack_cases {new : List Event} (hr : pendingReset s = none) (h : step s = .next t)
    (hnew : t.history = new ++ s.history) :
    (∃ f line, t.dstack = f :: s.dstack ∧ Event.dispatch line ∈ new) ∨
      (∀ line, Event.dispatch line ∉ new) ∧ (t.dstack = s.dstack ∨ Returns s ∧ ∃ f, s.dstack = f :: t.dstack) := by
  obtain ⟨-, -, rfl⟩ | ⟨u, hu, hends⟩ := step_ends hr h
  · obtain rfl : new = [] := List.self_eq_append_left.1 ((moved_history s).symm.trans hnew)
    exact .inr ⟨nofun, .inl (moved_dstack s)⟩
  obtain ⟨prims, hprims, -, -, hprim⟩ := hu.history
  obtain ⟨last, hlast, -, hdispatch⟩ := hends.last
  obtain rfl := new_eq_of_history hnew hlast hprims
  obtain ⟨f, line, hd, hmem⟩ | ⟨hd, hno⟩ := hdispatch
  · exact .inl ⟨f, line, hd, List.mem_append_left _ hmem⟩
  · refine .inr ⟨fun line hmem => ?_, hd ▸ hu.dstack⟩
    obtain hmem | hmem := List.mem_append.1 hmem
    · exact hno line hmem
    · exact absurd (hprim _ hmem).1 nofun

theorem resumeFrame_dstack (f : Frame) (s : State) : (resumeFrame f s).dstack = s.dstack := by
  cases f <;> rfl

/-- R196. -/
theorem step_pops_of_returns (hr : pendingReset s = none) (h : step s = .next t) (hret : Returns s) :
    ∃ f, s.dstack = f :: t.dstack := by
  obtain ⟨h0, hne, hc, c, rest, hh, hd⟩ := hret
  obtain ⟨f, frames, hstack⟩ := List.exists_cons_of_ne_nil hne
  obtain ⟨hp, hcfg, -⟩ := step_cases hr h
  obtain ⟨hissue, -⟩ := stepRunsTheDecodedCommand s c rest hp hcfg hr hc hh
  have hpop : execHret { moved s with host := rest } = _ :=
    execHret_pop ((moved_dstack s).trans hstack) ((moved_nest s).trans h0)
  rw [hissue .hret hd, exec, hpop, next_inj] at h
  rw [← h, resumeFrame_dstack]
  exact ⟨f, hstack⟩

theorem not_exists_cons_of_eq_cons {α : Type} {a b : List α} {x : α} (h : a = x :: b) : ¬∃ y, b = y :: a := by
  rintro ⟨y, hb⟩
  have ha := congrArg List.length h
  rw [hb, List.length_cons, List.length_cons] at ha
  omega

end

/-- Settles O55: `step_dstack_cases`; the three lengths of `DSTACK` exclude each other, and an HRET that returns does pop. -/
theorem dispatchStackFollowsDispatchAndReturn : Obligations.DispatchStackFollowsDispatchAndReturn := by
  intro s t new hr h hnew
  have hret := step_pops_of_returns hr h
  obtain ⟨f, line, hd, hmem⟩ | ⟨hno, hd | ⟨hreturns, f, hd⟩⟩ := step_dstack_cases hr h hnew
  · have hnopop := not_exists_cons_of_eq_cons hd
    exact ⟨iff_of_true ⟨f, hd⟩ ⟨line, hmem⟩, iff_of_false hnopop (hnopop ∘ hret), .inl ⟨f, hd⟩⟩
  · have hnopush : ¬∃ g, t.dstack = g :: s.dstack := by simp [hd]
    have hnopop : ¬∃ g, s.dstack = g :: t.dstack := by simp [hd]
    exact ⟨iff_of_false hnopush fun ⟨line, hmem⟩ => hno line hmem, iff_of_false hnopop (hnopop ∘ hret), .inr (.inr hd)⟩
  · have hnopush := not_exists_cons_of_eq_cons hd
    exact ⟨iff_of_false hnopush fun ⟨line, hmem⟩ => hno line hmem, iff_of_true ⟨f, hd⟩ hreturns, .inr (.inl ⟨f, hd⟩)⟩

/-! ## Primitives -/

section
variable {s t : State}

/-- The events of a step are those of its ending, no primitive, and before them at most one primitive, none when it decodes a
command, and of a wired pin. -/
theorem step_events {new : List Event} (hr : pendingReset s = none) (h : step s = .next t)
    (hnew : t.history = new ++ s.history) :
    ∃ last prims, new = last ++ prims ∧ (∀ e ∈ last, e.isPrimitive = false) ∧ prims.length ≤ 1 ∧
      (s.ctl = .ready → prims = []) ∧ (s.Inv → ∀ e ∈ prims, e.ofWiredPin s = true) := by
  obtain ⟨-, -, rfl⟩ | ⟨u, hu, hends⟩ := step_ends hr h
  · obtain rfl : new = [] := List.self_eq_append_left.1 ((moved_history s).symm.trans hnew)
    exact ⟨[], [], rfl, nofun, Nat.zero_le _, fun _ => rfl, nofun⟩
  obtain ⟨prims, hprims, hlen, hready, hprim⟩ := hu.history
  obtain ⟨last, hlast, hnoprim, -⟩ := hends.last
  exact ⟨last, prims, new_eq_of_history hnew hlast hprims, hnoprim, hlen, hready, fun hinv e he => (hprim e he).2 hinv⟩

theorem step_events_ofWiredPin {new : List Event} (hinv : s.Inv) (hr : pendingReset s = none) (h : step s = .next t)
    (hnew : t.history = new ++ s.history) {e : Event} (he : e ∈ new) (hprim : e.isPrimitive = true) :
    e.ofWiredPin s = true := by
  obtain ⟨last, prims, rfl, hlast, -, -, hw⟩ := step_events hr h hnew
  obtain he | he := List.mem_append.1 he
  · exact absurd hprim (by simp [hlast e he])
  · exact hw hinv e he

end

/-- Settles O58: drives, floats and reads are primitives, and a step's primitive is of a wired pin. -/
theorem unusedPinsMakeNoEvent : Obligations.UnusedPinsMakeNoEvent := by
  intro s t new hinv hr h hnew
  have hwired := fun e => step_events_ofWiredPin hinv hr h hnew (e := e)
  refine ⟨fun p l hmem => unused_of_outWired ?_, fun i l hmem => hwired _ hmem rfl⟩
  obtain hmem | hmem | hmem := hmem
  · exact hwired _ hmem rfl
  · exact hwired _ hmem rfl
  · exact hwired _ hmem rfl

section
variable {s t : State}

/-- `k` is the control state before a primitive that belongs to a command and not to a check or the fatal path (R66). -/
def BeforePrimitive (k : Ctl) : Prop :=
  (∃ d, k = .waiting d) ∨ ∃ m, k = .exec m ∧ m.ofCheck = false ∧ m ≠ .transportFatal

/-- A micro-step leads to one of a check or to the fatal path. -/
theorem Follows.not_beforePrimitive {m m' : Micro} (h : Follows s m m') : ¬BeforePrimitive (.exec m') := by
  rintro (⟨_, hk⟩ | ⟨_, hk, hcheck, hne⟩)
  · cases hk
  · cases hk
    cases h with
    | scan | probeCmd | probeDummy | probeRelease | probeDecide => cases hcheck
    | exchangeFailed | probeCmdFailed | probeDummyFailed => exact hne rfl

theorem microStep_not_beforePrimitive {m : Micro} (ht : t = microStep m s) : ¬BeforePrimitive t.ctl := by
  cases microStep_ends ht with
  | done | halt => simp [BeforePrimitive]
  | next h => exact h.not_beforePrimitive
  | @dispatch f line =>
    by_cases hfull : (afterPrimitive m s).dstack.length = (afterPrimitive m s).params.dispatchDepthMax
    · simp [BeforePrimitive, dispatch_eq_fault hfull]
    · simp [BeforePrimitive, dispatch_eq_respond hfull]

/-- A decoding that leads to a primitive is of the command whose primitive it is, and changes `CTL` alone. -/
theorem exec_beforePrimitive {i : Instr} (he : exec i s = .next t) (hk : BeforePrimitive t.ctl) :
    pendingPrimitive i = some t.ctl ∧ t = { s with ctl := t.ctl } := by
  obtain ⟨k, hp, -, rfl⟩ | ⟨_, rfl⟩ | ⟨_, _, _, _, rfl⟩ | ⟨_, _, rfl⟩ | ⟨_, _, _, rfl⟩ | ⟨_, _, m, hm, rfl⟩ |
    ⟨_, _, _, _, _, rfl⟩ | ⟨_, _, _, _, rfl⟩ | ⟨_, _, _, rfl⟩ := exec_cases he
  case inl => exact ⟨hp, rfl⟩
  case inr.inr.inr.inr.inr.inl =>
    obtain ⟨-, rfl⟩ | ⟨-, rfl⟩ := hm <;> simp [BeforePrimitive, Micro.ofCheck] at hk
  all_goals simp [BeforePrimitive, Micro.ofCheck] at hk

end

/-- Settles O60: `step_events` for the count; what leads to a primitive is a decoding, or a wait that goes on. -/
theorem decodingIsAMicroStepOfItsOwn : Obligations.DecodingIsAMicroStepOfItsOwn := by
  intro s t new hr h hnew
  refine ⟨?count, ?decoding, ?leads⟩
  case count =>
    obtain ⟨last, prims, rfl, hlast, hlen, -⟩ := step_events hr h hnew
    rw [List.filter_append, List.filter_eq_nil_iff.2 (by simpa using hlast), List.nil_append]
    exact (List.length_filter_le ..).trans hlen
  case decoding =>
    intro hc
    obtain ⟨last, prims, rfl, hlast, -, hready, -⟩ := step_events hr h hnew
    rw [hready hc, List.append_nil]
    exact List.filter_eq_nil_iff.2 (by simpa using hlast)
  case leads =>
    rintro _ rfl (hk : BeforePrimitive t.ctl)
    obtain ⟨-, -, ⟨hc, -, rfl⟩ | ⟨c, rest, i, hc, hh, hd, he⟩ | ⟨c, rest, e, -, -, -, rfl⟩ | ⟨m, -, ht⟩ | ⟨d, hc, rfl⟩⟩ :=
      step_cases hr h
    · simp [BeforePrimitive, hc] at hk
    · obtain ⟨hp, ht⟩ := exec_beforePrimitive he hk
      exact .inr ⟨c, rest, i, hc, hh, hd, hp, ht⟩
    · simp [BeforePrimitive] at hk
    · exact absurd hk (microStep_not_beforePrimitive ht)
    · obtain ⟨-, e⟩ | ⟨-, e⟩ := waitSample_cases d (moved s) <;> rw [e] at hk ⊢
      · exact .inl ⟨d, rfl, hc⟩
      · simp [BeforePrimitive] at hk

end Sys2Proof.Machine
end

section
/-! PROOFS. A command in progress is bounded (70_reset_and_hazards.md R295): each micro-step leads to one with fewer to come. -/

namespace Sys2Proof.Machine

/-- The most micro-steps that a command takes from `m` on, `m` among them: a scan one for each line left and one to complete. -/
def microsLeft (p : Params) : Micro → Nat
  | .scan r => p.numDio - r + 1
  | .probeAssert => 5
  | .probeCmd => 4
  | .probeDummy => 3
  | .probeRelease _ | .exchange _ => 2
  | .probeDecide _ | .transportFatal => 1
  | .tickNow | .tickUntil _ | .tickReached _ | .drive _ _ | .float _ | .read _ => 1

/-- The command is over: it has completed or dispatched, faulted or halted. -/
def CommandOver (s : State) : Prop := s.ctl = .ready ∨ s.ctl = .faulted ∨ s.ctl = .halted

section
variable {s t : State} {m m' : Micro}

theorem microsLeft_pos (p : Params) (m : Micro) : 0 < microsLeft p m := by
  cases m <;> exact Nat.succ_pos _

theorem Follows.microsLeft_lt (h : Follows s m m') : microsLeft s.params m' < microsLeft s.params m := by
  cases h with
  | scan hi =>
    obtain ⟨hri, hlt, -⟩ := nextWired_eq_some.1 hi
    simp only [microsLeft]
    omega
  | probeCmd | probeDummy | probeRelease | probeDecide => exact Nat.lt_succ_self _
  | exchangeFailed | probeCmdFailed | probeDummyFailed => simp [microsLeft]

theorem commandOver_dispatch (f : Frame) (line : Nat) (s : State) : CommandOver (dispatch f line s) := by
  by_cases hfull : s.dstack.length = s.params.dispatchDepthMax
  · rw [dispatch_eq_fault hfull]
    exact .inr (.inl rfl)
  · rw [dispatch_eq_respond hfull]
    exact .inl rfl

theorem microStep_over_or_fewer (ht : t = microStep m s) :
    CommandOver t ∨ ∃ m', t.ctl = .exec m' ∧ microsLeft s.params m' < microsLeft s.params m := by
  cases microStep_ends ht with
  | done => exact .inl (.inl rfl)
  | next h => exact .inr ⟨_, rfl, h.microsLeft_lt⟩
  | dispatch => exact .inl (commandOver_dispatch ..)
  | halt => exact .inl (.inr (.inr rfl))

theorem run_to_commandOver (n : Nat) (hinv : s.Inv) (hn : s.noReset) (hc : s.ctl = .exec m)
    (hleft : microsLeft s.params m ≤ n) : ∃ k t, k ≤ n ∧ core.run k s = .next t ∧ CommandOver t := by
  induction n generalizing s m with
  | zero => exact absurd hleft (Nat.not_le.2 (microsLeft_pos s.params m))
  | succ n ih =>
    have hr := pendingReset_of_noReset hn
    obtain ⟨hexec, -⟩ := stepTakesTheNextMicroStep s hinv.params_legal hinv.config_legal hr
    have hstep := hexec m hc
    obtain hover | ⟨m', hc', hfewer⟩ := microStep_over_or_fewer (s := moved s) (m := m) rfl
    · exact ⟨1, _, Nat.succ_le_succ n.zero_le, run_one hstep, hover⟩
    · obtain ⟨hparams, -, -⟩ := step_fixed hr hstep
      rw [moved_params] at hfewer
      obtain ⟨k, t, hk, hrun, hover⟩ := ih (everyStepKeepsTheInvariant _ _ hinv hstep) (step_noReset hn hstep) hc'
        (hparams ▸ Nat.le_of_lt_succ (hfewer.trans_le hleft))
      exact ⟨k + 1, t, Nat.succ_le_succ hk, (run_succ k hstep).trans hrun, hover⟩

end

/-- Settles O51: `run_to_commandOver`, and `microsLeft` is within R295's bounds. -/
theorem commandsAreBounded : Obligations.CommandsAreBounded := by
  intro s m hinv hn hc
  obtain ⟨k, t, hk, hrun, hover⟩ := run_to_commandOver _ hinv hn hc (Nat.le_refl _)
  refine ⟨k, _, t, rfl, hk.trans ?_, hrun, hover⟩
  cases m with
  | scan r => exact Nat.succ_le_succ (Nat.sub_le ..)
  | probeAssert | probeCmd | probeDummy | probeRelease | probeDecide => simp [microsLeft]
  | exchange | tickNow | tickUntil | tickReached | drive | float | read | transportFatal => exact Nat.le_refl _

end Sys2Proof.Machine
end

section
/-! PROOFS. The tick commands (40_tick_clock.md R132 to R137): what each sample answers, and that every wait ends under the two
assumptions of 20_memory.md R67. -/

namespace Sys2Proof.Machine

/-! ## One sample -/

section
variable {s : State}

theorem moved_with_ctl (s : State) (k : Ctl) : moved { s with ctl := k } = { moved s with ctl := k } := by
  simp only [moved]
  split <;> rfl

/-- The micro-step `m`, with the environment's moves before it. -/
theorem step_of_micro (h : s.undisturbed) (m : Micro) :
    step { s with ctl := .exec m } = .next (microStep m { moved s with ctl := .exec m }) := by
  obtain ⟨hp, hcfg, hr⟩ := h
  rw [step_of_no_reset (s := { s with ctl := .exec m }) hp hcfg hr, moved_with_ctl]
  rfl

theorem step_of_wait (h : s.undisturbed) (d : Word) :
    step { s with ctl := .waiting d } = .next (waitSample d { moved s with ctl := .waiting d }) := by
  obtain ⟨hp, hcfg, hr⟩ := h
  rw [step_of_no_reset (s := { s with ctl := .waiting d }) hp hcfg hr, moved_with_ctl]
  rfl

/-- R131: the tick that a sample after the environment's moves gives. -/
theorem tick_of_moved {n : Word} (hn : n = BitVec.ofNat 32 ((moved s).env.cnt / 2 ^ s.params.tickShift)) :
    tick (moved s).params (moved s).env.cnt = n := by
  rw [tick_eq, moved_params, hn]

theorem waitSample_reached {d : Word} (h : (d - tick s.params s.env.cnt).toInt ≤ 0) :
    waitSample d s = respondDone 0 (readCounter s) :=
  if_pos ((reached_iff _ _).2 h)

theorem waitSample_early {d : Word} (h : 0 < (d - tick s.params s.env.cnt).toInt) :
    waitSample d s = { readCounter s with ctl := .waiting d } :=
  if_neg (ne_true_of_eq_false ((reached_false_iff _ _).2 h))

theorem levelWord_reached {d n b : Word} (h : (d - n).toInt ≤ 0 ∧ b = 1 ∨ 0 < (d - n).toInt ∧ b = 0) :
    levelWord (reached d n) = b := by
  obtain ⟨hle, rfl⟩ | ⟨hlt, rfl⟩ := h
  · rw [(reached_iff d n).2 hle]; rfl
  · rw [(reached_false_iff d n).2 hlt]; rfl

end

/-- Settles O19: decoding, and the micro-step with the tick of its sample. -/
theorem tickNowAnswersTheTick : Obligations.TickNowAnswersTheTick := by
  refine ⟨fun _ _ => rfl, fun _ => rfl, fun s n hs hn => ?_⟩
  rw [step_of_micro hs, ← moved_history s, ← tick_of_moved hn]
  rfl

/-- Settles O20: decoding, and the micro-step with the tick of its sample. -/
theorem tickUntilAnswersTheDelta : Obligations.TickUntilAnswersTheDelta := by
  refine ⟨fun _ _ => rfl, fun _ _ => rfl, fun s d n hs hn => ?_⟩
  rw [step_of_micro hs, ← moved_history s, ← tick_of_moved hn]
  rfl

/-- Settles O21: decoding, and the micro-step, whose answer is `reached` of the tick of its sample. -/
theorem tickReachedAnswersTheComparison : Obligations.TickReachedAnswersTheComparison := by
  refine ⟨fun _ _ => rfl, fun _ _ => rfl, fun s d n b hs hn hb => ?_⟩
  rw [step_of_micro hs, ← moved_history s, ← levelWord_reached hb, ← tick_of_moved hn]
  rfl

/-- Settles O22: decoding, and the two outcomes of a sample. -/
theorem tickWaitTakesItsFirstSample : Obligations.TickWaitTakesItsFirstSample := by
  refine ⟨fun _ _ => rfl, fun _ _ => rfl, fun s d n hs hn => ?_⟩
  rw [step_of_wait hs, ← moved_history s, ← tick_of_moved hn]
  constructor
  · intro hreached
    rw [waitSample_reached (s := { moved s with ctl := .waiting d }) hreached]
    rfl
  · intro hearly
    rw [waitSample_early (s := { moved s with ctl := .waiting d }) hearly]
    rfl

/-- Settles O23: a WAITING block is in the state of O22's sample. -/
theorem waitingBlockOnlySamples : Obligations.WaitingBlockOnlySamples := by
  intro s d n hp hcfg hr hc hn
  obtain ⟨-, -, hsample⟩ := tickWaitTakesItsFirstSample
  obtain ⟨hreached, hearly⟩ := hsample s d n ⟨hp, hcfg, hr⟩ hn
  have hs : { s with ctl := .waiting d } = s := by rw [← hc]
  have hmoved : ∀ hist, { moved s with ctl := .waiting d, history := hist } = { moved s with history := hist } := by
    intro hist
    rw [← hc, ← moved_ctl s]
  rw [hs] at hreached hearly
  exact ⟨hreached, fun h => (hearly h).trans (congrArg _ (hmoved _))⟩

/-! ## The comparator over an advance -/

/-- R132, R286: the deadline is reached when the advance `k` from `n` is at most 2^31 past the distance to it, modulo 2^32. -/
theorem reached_after_advance (d n : Word) (k : Nat) :
    reached d (n + BitVec.ofNat 32 k) = true ↔ (BitVec.ofNat 32 k - (d - n)).toNat ≤ 2 ^ 31 := by
  rw [reachedIsHalfTheRange, sub_sub_eq_add_sub, add_comm (BitVec.ofNat 32 k)]

/-- An advance that covers the distance to the deadline, by no more than half the range. -/
theorem reached_of_covered {d n : Word} {k : Nat} (hlo : (d - n).toNat ≤ k) (hhi : k ≤ (d - n).toNat + 2 ^ 31) :
    reached d (n + BitVec.ofNat 32 k) = true := by
  rw [reached_after_advance, BitVec.toNat_sub, BitVec.toNat_ofNat]
  omega

theorem not_reached_of_short {d n : Word} {k : Nat} (hdist : (d - n).toNat < 2 ^ 31) (h : k < (d - n).toNat) :
    reached d (n + BitVec.ofNat 32 k) = false := by
  rw [← Bool.not_eq_true, reached_after_advance, BitVec.toNat_sub, BitVec.toNat_ofNat]
  omega

/-- A positive difference is less than half the range. -/
theorem toNat_of_toInt_pos {x : Word} (h : 0 < x.toInt) : 0 < x.toNat ∧ x.toNat < 2 ^ 31 := by
  rw [BitVec.toInt_eq_toNat_cond] at h
  split at h <;> omega

/-- Settles O27: the advance has covered the distance, or falls short of it. -/
theorem reachedTellsTheAdvance : Obligations.ReachedTellsTheAdvance := by
  intro d n k hahead hk
  obtain ⟨-, hdist⟩ := toNat_of_toInt_pos hahead
  by_cases h : (d - n).toNat ≤ k
  · exact iff_of_true (reached_of_covered h (by omega)) h
  · refine iff_of_false ?_ h
    simp [not_reached_of_short hdist (Nat.lt_of_not_le h)]

/-! ## A sample that finds the deadline reached -/

section
variable {p : Params} {c : Nat} {moves : Nat → EnvMove} {d : Word}

/-- `CNT` without its wrap, as a tick count. -/
def ticksAfter (p : Params) (c : Nat) (moves : Nat → EnvMove) (k : Nat) : Nat := counterAfter c moves k >>> p.tickShift

theorem counterAfter_le_succ (c : Nat) (moves : Nat → EnvMove) (k : Nat) :
    counterAfter c moves k ≤ counterAfter c moves (k + 1) := Nat.le_add_right ..

theorem ticksAfter_mono (p : Params) (c : Nat) (moves : Nat → EnvMove) : Monotone (ticksAfter p c moves) :=
  monotone_nat_of_le_succ fun k => by
    simp only [ticksAfter, Nat.shiftRight_eq_div_pow]
    exact Nat.div_le_div_right (counterAfter_le_succ c moves k)

/-- R67: the ticks advance without bound. -/
theorem exists_ticksAfter (h : Progress c moves) (n : Nat) : ∃ k, n ≤ ticksAfter p c moves k := by
  obtain ⟨k, hk⟩ := h (n * 2 ^ p.tickShift)
  refine ⟨k, ?_⟩
  rw [ticksAfter, Nat.shiftRight_eq_div_pow]
  exact (Nat.le_div_iff_mul_le (Nat.two_pow_pos _)).2 hk

theorem tick_counterAfter (p : Params) (c : Nat) (moves : Nat → EnvMove) (j k : Nat) (h : j ≤ k) :
    tick p (counterAfter c moves k) =
      tick p (counterAfter c moves j) + BitVec.ofNat 32 (ticksAfter p c moves k - ticksAfter p c moves j) := by
  have hle := ticksAfter_mono p c moves h
  rw [tick, tick, ← BitVec.ofNat_add]
  simp only [ticksAfter] at hle ⊢
  rw [Nat.add_sub_cancel' hle]

/-- R67: of the samples after the first, the first one that is past the deadline is past it by less than half the range. -/
theorem exists_reached (hprogress : Progress c moves) (hsampling : Sampling p c moves) (d : Word) :
    ∃ k, reached d (tick p (counterAfter c moves (k + 1))) = true := by
  cases hfirst : reached d (tick p (counterAfter c moves 1)) with
  | true => exact ⟨0, hfirst⟩
  | false =>
    obtain ⟨hpos, hdist⟩ := toNat_of_toInt_pos ((reached_false_iff _ _).1 hfirst)
    generalize hx : d - tick p (counterAfter c moves 1) = x at hpos hdist
    have hcross : ∃ k, ticksAfter p c moves 1 + x.toNat ≤ ticksAfter p c moves (k + 1) := by
      obtain ⟨k, hk⟩ := exists_ticksAfter hprogress (ticksAfter p c moves 1 + x.toNat)
      exact ⟨k, hk.trans (ticksAfter_mono p c moves k.le_succ)⟩
    have hpast := Nat.find_spec hcross
    refine ⟨Nat.find hcross, ?_⟩
    rw [tick_counterAfter p c moves 1 _ (Nat.le_add_left ..)]
    cases hk : Nat.find hcross with
    | zero =>
      rw [hk, Nat.zero_add] at hpast
      omega
    | succ k =>
      rw [hk] at hpast
      have hbefore := Nat.find_min hcross (m := k) (by omega)
      have hstep : ticksAfter p c moves (k + 1 + 1) - ticksAfter p c moves (k + 1) < 2 ^ 31 := hsampling k
      refine reached_of_covered ?_ ?_ <;> rw [hx] <;> omega

end

/-! ## The run of a wait -/

/-- What TICK_WAIT leaves as it was (R137): all of the block but `CTL` and the response registers, and the host's stream. -/
structure WaitKept (s t : State) : Prop where
  params : t.params = s.params
  cfg : t.cfg = s.cfg
  nest : t.nest = s.nest
  edge : t.edge = s.edge
  dstack : t.dstack = s.dstack
  pins : t.pins = s.pins
  fcause : t.fcause = s.fcause
  finfo : t.finfo = s.finfo
  flog : t.flog = s.flog
  host : t.host = s.host

/-- The wait is over: DONE(0), READY. -/
structure WaitDone (s t : State) : Prop where
  ctl : t.ctl = .ready
  rkind : t.rkind = 0
  rdata : t.rdata = 0
  history : t.history.head? = some (.done 0)
  kept : WaitKept s t

section
variable {s t u : State} {d : Word}

theorem WaitKept.trans (h : WaitKept s t) (h' : WaitKept t u) : WaitKept s u where
  params := h'.params.trans h.params
  cfg := h'.cfg.trans h.cfg
  nest := h'.nest.trans h.nest
  edge := h'.edge.trans h.edge
  dstack := h'.dstack.trans h.dstack
  pins := h'.pins.trans h.pins
  fcause := h'.fcause.trans h.fcause
  finfo := h'.finfo.trans h.finfo
  flog := h'.flog.trans h.flog
  host := h'.host.trans h.host

theorem WaitDone.after (h : WaitDone t u) (h' : WaitKept s t) : WaitDone s u := { h with kept := h'.trans h.kept }

/-- The state after one step of a wait with the move `m`, but for the inputs left. -/
def afterSample (d : Word) (m : EnvMove) (s : State) : State := waitSample d (applyMove m s)

theorem afterSample_reached {m : EnvMove} (h : reached d (tick s.params (moveEnv s.params m s.env).cnt) = true) :
    afterSample d m s = respondDone 0 (readCounter (applyMove m s)) := if_pos h

theorem afterSample_early {m : EnvMove} (h : reached d (tick s.params (moveEnv s.params m s.env).cnt) = false) :
    afterSample d m s = { readCounter (applyMove m s) with ctl := .waiting d } := if_neg (ne_true_of_eq_false h)

theorem step_wait_of_move {m : EnvMove} {rest : List Input} (hp : paramsLegal s.params = true)
    (hcfg : configLegal s.params s.cfg = true) (hc : s.ctl = .waiting d) :
    step { s with inputs := .move m :: rest } = .next { afterSample d m s with inputs := rest } := by
  have hmoved : moved { s with inputs := .move m :: rest } = applyMove m { s with inputs := rest } := rfl
  rw [step_of_no_reset (s := { s with inputs := .move m :: rest }) hp hcfg rfl, hmoved,
    blockStep_waiting (s := applyMove m { s with inputs := rest }) hc]
  cases h : reached d (tick s.params (moveEnv s.params m s.env).cnt) with
  | true =>
    rw [afterSample_reached h]
    exact congrArg _ (if_pos h)
  | false =>
    rw [afterSample_early h]
    exact congrArg _ (if_neg (ne_true_of_eq_false h))

/-- The first move of a sequence taken off. -/
theorem counterAfter_tail (c : Nat) (moves : Nat → EnvMove) (k : Nat) :
    counterAfter (c + (moves 0).advance) (fun j => moves (j + 1)) k = counterAfter c moves (k + 1) := by
  induction k with
  | zero => rfl
  | succ k ih => rw [counterAfter, ih]; rfl

theorem counterAfter_eq_add (c : Nat) (moves : Nat → EnvMove) (k : Nat) :
    counterAfter c moves k = c + counterAfter 0 moves k := by
  induction k with
  | zero => rfl
  | succ k ih => rw [counterAfter, counterAfter, ih, Nat.add_assoc]

/-- R131: the tick does not see the counter's wrap, at whichever sample it wrapped. -/
theorem tick_counterAfter_mod {p : Params} (h : paramsLegal p = true) (c : Nat) (moves : Nat → EnvMove) (k : Nat) :
    tick p (counterAfter (c % 2 ^ p.cntW) moves k) = tick p (counterAfter c moves k) := by
  have hwidth := width_of_paramsLegal h
  rw [← tick_mod_counter hwidth, counterAfter_eq_add, Nat.mod_add_mod, ← counterAfter_eq_add, tick_mod_counter hwidth]

/-- The first sample sees the unwrapped counter's tick. -/
theorem tick_first_move {p : Params} (h : paramsLegal p = true) (e : Env) (moves : Nat → EnvMove) :
    tick p (moveEnv p (moves 0) e).cnt = tick p (counterAfter e.cnt moves 1) :=
  tick_counterAfter_mod h (e.cnt + (moves 0).advance) moves 0

theorem afterSample_early_kept {m : EnvMove} (h : reached d (tick s.params (moveEnv s.params m s.env).cnt) = false) :
    WaitKept s (afterSample d m s) := by
  rw [afterSample_early h]
  exact ⟨rfl, rfl, rfl, rfl, rfl, rfl, rfl, rfl, rfl, rfl⟩

theorem afterSample_reached_done {m : EnvMove} (h : reached d (tick s.params (moveEnv s.params m s.env).cnt) = true)
    (rest : List Input) : WaitDone s { afterSample d m s with inputs := rest } := by
  rw [afterSample_reached h]
  exact ⟨rfl, rfl, rfl, rfl, ⟨rfl, rfl, rfl, rfl, rfl, rfl, rfl, rfl, rfl, rfl⟩⟩

/-- The first `k` of the moves, as inputs. -/
def movesAsInputs (moves : Nat → EnvMove) (k : Nat) : List Input := (List.range k).map fun j => .move (moves j)

theorem movesAsInputs_succ (moves : Nat → EnvMove) (k : Nat) :
    movesAsInputs moves (k + 1) = .move (moves 0) :: movesAsInputs (fun j => moves (j + 1)) k := by
  rw [movesAsInputs, List.range_succ_eq_map, List.map_cons, List.map_map]
  rfl

/-- A wait that one of its samples would find past the deadline is over at some step: this sample's, or an earlier one's. -/
theorem wait_done (n : Nat) {moves : Nat → EnvMove} (hp : paramsLegal s.params = true)
    (hcfg : configLegal s.params s.cfg = true) (hc : s.ctl = .waiting d)
    (hpast : reached d (tick s.params (counterAfter s.env.cnt moves (n + 1))) = true) :
    ∃ k t, core.run k { s with inputs := movesAsInputs moves k } = .next t ∧ WaitDone s t := by
  induction n generalizing s moves with
  | zero =>
    rw [← tick_first_move hp] at hpast
    exact ⟨1, _, run_one (step_wait_of_move hp hcfg hc), afterSample_reached_done hpast _⟩
  | succ n ih =>
    cases hnow : reached d (tick s.params (moveEnv s.params (moves 0) s.env).cnt) with
    | true => exact ⟨1, _, run_one (step_wait_of_move hp hcfg hc), afterSample_reached_done hnow _⟩
    | false =>
      have hkept := afterSample_early_kept hnow
      have hcnt : (afterSample d (moves 0) s).env.cnt = (s.env.cnt + (moves 0).advance) % 2 ^ s.params.cntW := by
        rw [afterSample_early hnow]; rfl
      have hwait : (afterSample d (moves 0) s).ctl = .waiting d := by rw [afterSample_early hnow]
      have hpast' : reached d (tick s.params
          (counterAfter (afterSample d (moves 0) s).env.cnt (fun j => moves (j + 1)) (n + 1))) = true := by
        rwa [hcnt, tick_counterAfter_mod hp, counterAfter_tail]
      obtain ⟨k, t, hrun, hdone⟩ := ih (s := afterSample d (moves 0) s) (by rwa [hkept.params])
        (by rwa [hkept.params, hkept.cfg]) hwait (by rwa [hkept.params])
      refine ⟨k + 1, t, ?_, hdone.after hkept⟩
      rw [movesAsInputs_succ, run_succ k (step_wait_of_move hp hcfg hc), hrun]

end

/-- Settles O28: some sample would find the deadline past (`exists_reached`), so the wait is over at one of them
(`wait_done`). -/
theorem everyWaitEnds : Obligations.EveryWaitEnds := by
  intro s d moves hinv hc hprogress hsampling
  obtain ⟨n, hpast⟩ := exists_reached hprogress hsampling d
  obtain ⟨k, t, hrun, hdone⟩ := wait_done n hinv.params_legal hinv.config_legal hc hpast
  have hkept := hdone.kept
  exact ⟨k, t, hrun, hdone.ctl, hdone.rkind, hdone.rdata, hdone.history, hkept.params, hkept.cfg, hkept.nest, hkept.edge,
    hkept.dstack, hkept.pins, hkept.fcause, hkept.finfo, hkept.flog, hkept.host⟩

end Sys2Proof.Machine
end

section
/-! PROOFS. The pin commands, the bus exchange and the probe (41_pin_control.md R152 to R156, 42_bus_transactor.md R172 to R174,
43_interrupt_coordinator.md R193, R194): one equation for each outcome of a decoding and of a micro-step. -/

namespace Sys2Proof.Machine

/-! ## Driving and floating pins -/

section
variable {s : State} {p : OutPin}

theorem outWired_of_used (h : (outCfg s.cfg p).unused = false) : outWired s p = true := by
  rw [outWired, h]; rfl

theorem outWired_of_unused (h : (outCfg s.cfg p).unused = true) : outWired s p = false := by
  rw [outWired, h]; rfl

theorem setPin_wired (h : (outCfg s.cfg p).unused = false) (m : Micro) : setPin p m s = continueAt m s :=
  if_pos (outWired_of_used h)

theorem setPin_unused (h : (outCfg s.cfg p).unused = true) (m : Micro) : setPin p m s = respondDone 0 s :=
  if_neg (ne_true_of_eq_false (outWired_of_unused h))

/-- R159, R153 to R155: the micro-step that drives a pin. -/
theorem step_drive (h : s.undisturbed) (p : OutPin) (l : Level) :
    step { s with ctl := .exec (.drive p l) } =
      .next { moved s with
        pins := s.pins.set p (some ⟨.output, l⟩), rkind := 0, rdata := 0, ctl := .ready
        history := .done 0 :: .drive p l :: s.history } := by
  rw [step_of_micro h, ← moved_history s, ← moved_pins s]
  rfl

/-- R154: the micro-step that floats the reset pin. -/
theorem step_float_rst (h : s.undisturbed) {q : PinState} (hq : s.pins.rst = some q) :
    step { s with ctl := .exec (.float .rst) } =
      .next { moved s with
        pins := { s.pins with rst := some ⟨.input, q.out⟩ }, rkind := 0, rdata := 0, ctl := .ready
        history := .done 0 :: .float .rst :: s.history } := by
  have hfloat : s.pins.set .rst ((s.pins.get .rst).map fun q => { q with mode := .input }) =
      { s.pins with rst := some ⟨.input, q.out⟩ } := by
    simp only [PinBank.get, PinBank.set, hq, Option.map_some]
  rw [step_of_micro h, ← hfloat, ← moved_history s, ← moved_pins s]
  rfl

end

/-- Settles O29: the four words, then CS wired or unused. -/
theorem setCsDrivesChipSelect : Obligations.SetCsDrivesChipSelect := by
  refine ⟨fun _ _ => ⟨rfl, rfl, rfl, rfl⟩, fun s l => ⟨fun hw => ⟨?_, fun hs => step_drive hs .cs l⟩, fun hu => ?_⟩⟩
  · exact congrArg _ (setPin_wired (p := .cs) hw _)
  · exact congrArg _ (setPin_unused (p := .cs) hu _)

/-- Settles O30: the four words, then RST wired, driven or floated, or unused. -/
theorem setRstDrivesOrFloatsReset : Obligations.SetRstDrivesOrFloatsReset := by
  refine ⟨fun _ _ => ⟨rfl, rfl, rfl, rfl⟩, fun s => ⟨fun hw => ?_, fun hu l => ?_⟩⟩
  · refine ⟨fun l => ?_, fun l hs => step_drive hs .rst l, ?_, fun q hs hq => step_float_rst hs hq⟩
    · exact congrArg _ (setPin_wired (p := .rst) hw _)
    · exact congrArg _ (setPin_wired (p := .rst) hw _)
  · cases l with
    | drive l => exact congrArg _ (setPin_unused (p := .rst) hu _)
    | floating => exact congrArg _ (setPin_unused (p := .rst) hu _)

/-- Settles O31: the four words, then RXTX wired or unused. -/
theorem setRxtxDrivesTheSwitch : Obligations.SetRxtxDrivesTheSwitch := by
  refine ⟨fun _ _ => ⟨rfl, rfl, rfl, rfl⟩, fun s l => ⟨fun hw => ⟨?_, fun hs => step_drive hs .rxtx l⟩, fun hu => ?_⟩⟩
  · exact congrArg _ (setPin_wired (p := .rxtx) hw _)
  · exact congrArg _ (setPin_unused (p := .rxtx) hu _)

/-! ## Reading pins -/

section
variable {s : State}

/-- R156: a wired pin in input mode is read. -/
theorem execGetLevel_input {p : OutPin} {q : PinState} (hw : (outCfg s.cfg p).unused = false) (hq : s.pins.get p = some q)
    (hm : q.mode = .input) : execGetLevel (.out p) s = .next (continueAt (.read (.out p)) s) := by
  have hread : outReadable s p = true := by simp [outReadable, outWired_of_used hw, hq, hm]
  simp only [execGetLevel, if_pos hread]

/-- R152, R156: of an unused or an output-driven pin the level is not constrained. -/
theorem execGetLevel_unread {p : OutPin} {q : PinState}
    (h : (outCfg s.cfg p).unused = true ∨ s.pins.get p = some q ∧ q.mode = .output) :
    execGetLevel (.out p) s = .next (anyLevelAndRespond s) := by
  have hread : outReadable s p = false := by
    obtain hu | ⟨hq, hm⟩ := h
    · simp [outReadable, outWired_of_unused hu]
    · simp [outReadable, hq, hm]
  simp only [execGetLevel, if_neg (ne_true_of_eq_false hread)]

theorem execGetLevel_line {i : Nat} (hi : i < s.params.numDio) (hw : dioWired s i = true) :
    execGetLevel (.dio i) s = .next (continueAt (.read (.dio i)) s) := by
  simp only [execGetLevel, if_pos hi, if_pos hw]

theorem execGetLevel_unused_line {i : Nat} (hi : i < s.params.numDio) (hu : dioWired s i = false) :
    execGetLevel (.dio i) s = .next (anyLevelAndRespond s) := by
  simp only [execGetLevel, if_pos hi, if_neg (ne_true_of_eq_false hu)]

theorem step_read (h : s.undisturbed) (p : Pin) :
    step { s with ctl := .exec (.read p) } =
      .next { moved s with
        rkind := 0, rdata := levelWord (extLevel (moved s).env.ext p), ctl := .ready
        history := .done (levelWord (extLevel (moved s).env.ext p)) ::
          .read p (extLevel (moved s).env.ext p) :: s.history } := by
  rw [step_of_micro h, ← moved_history s]
  rfl

end

/-- R156 with R104 and R105: the words of GET_LEVEL. -/
theorem decode_getLevel_words (n : Nat) (arg : Word) :
    (∀ p : Pin, p.wf n = true → decode n (formatP 0x21 (pinCode p) 0) arg = .instr (.getLevel p)) ∧
    (∀ code : BitVec 4, code = 3 ∨ 4 + n ≤ code.toNat → decode n (formatP 0x21 code 0) arg = .fault .illegalOperand) ∧
    ∀ (code : BitVec 4) (lvl : BitVec 2), lvl ≠ 0 → decode n (formatP 0x21 code lvl) arg = .fault .reservedBits := by
  refine ⟨fun p hwf => ?_, fun code hbad => ?_, fun code lvl hne => ?_⟩
  · exact (decode_getLevel_word ..).trans (decodeGetLevel_pinCode hwf)
  · exact (decode_getLevel_word ..).trans (decodeGetLevel_illegal (hbad.imp_left (congrArg BitVec.toNat)))
  · rw [decode_getLevel_word, requireZero_of_ne hne]

/-- Settles O32: the words, the inputs that are read, the read, and the pins of which the level is not constrained. -/
theorem getLevelReadsInputs : Obligations.GetLevelReadsInputs := by
  refine ⟨decode_getLevel_words, fun _ _ _ => execGetLevel_input, fun _ _ => execGetLevel_line, ?_, ?_⟩
  · rintro s p _ _ hs rfl rfl
    exact step_read hs p
  · rintro s _ rfl
    exact ⟨fun _ _ => execGetLevel_unread, fun _ => execGetLevel_unused_line⟩

/-! ## The bus -/

section
variable {s : State}

theorem exchangeAndRespond_ok (b : Byte) (h : s.env.busErr = false) :
    exchangeAndRespond b s = respondDone (byteWord s.env.busByte) (record (.xfer b false s.env.busByte) s) := by
  rw [exchangeAndRespond, spiExchange, h]
  rfl

theorem exchangeAndRespond_failed (b : Byte) (h : s.env.busErr = true) :
    exchangeAndRespond b s = continueAt .transportFatal (record (.xfer b true s.env.busByte) s) := by
  rw [exchangeAndRespond, spiExchange, h]
  rfl

end

/-- R174: `FATAL_LOC_TRANSPORT` and line 0. -/
theorem microStep_transportFatal (s : State) :
    microStep .transportFatal s = fatalHalt .transportFault 0xFFFFFFFF 0 s := rfl

/-- Settles O33: the words, decoding, the exchange that succeeds or fails, and the fatal path. -/
theorem spiXferExchangesOneByte : Obligations.SpiXferExchangesOneByte := by
  refine ⟨fun n b arg => decode_spiXfer_word n arg b, fun _ _ => rfl, ?_, microStep_transportFatal⟩
  rintro s b _ hs rfl
  rw [step_of_micro hs, ← moved_history s, microStep]
  constructor
  · intro hok
    rw [exchangeAndRespond_ok (s := { moved s with ctl := .exec (.exchange b) }) b hok]
    rfl
  · intro hfailed
    rw [exchangeAndRespond_failed (s := { moved s with ctl := .exec (.exchange b) }) b hfailed]
    rfl

/-- Settles O34: the fatal path of R222 with the cause, location and line of R174. -/
theorem transportErrorHalts : Obligations.TransportErrorHalts := fun s =>
  (microStep_transportFatal s).trans (fatalHalt_eq s .transportFault 0xFFFFFFFF 0)

/-! ## The probe -/

section
variable {s : State}

theorem probeDrive_wired (h : s.cfg.cs.unused = false) (l : Level) : probeDrive l s = pinDrive .cs l s :=
  if_pos (outWired_of_used (p := .cs) h)

theorem probeDrive_unused (h : s.cfg.cs.unused = true) (l : Level) : probeDrive l s = s :=
  if_neg (ne_true_of_eq_false (outWired_of_unused (p := .cs) h))

theorem probeDecide_zero : probeDecide 0 s = respondDone 0 s := if_pos rfl

theorem probeDecide_status {status : Byte} (h : status ≠ 0) : probeDecide status s = dispatch .probe 0 s := if_neg h

end

/-- Settles O40: chip-select wired or unused, the two exchanges, and the decision, whose dispatch is O39's. -/
theorem probeReadsTheStatusOnce : Obligations.ProbeReadsTheStatusOnce := by
  intro s st
  refine ⟨microStep_transportFatal s, fun hw => ?wired, fun hu => ?unused, rfl, rfl, ?zero, fun hne => ?room, fun hne => ?full⟩
  case wired => simp only [microStep, probeDrive_wired hw]; exact ⟨rfl, rfl⟩
  case unused => simp only [microStep, probeDrive_unused hu]; exact ⟨rfl, rfl⟩
  case zero => rintro rfl; exact probeDecide_zero
  case room => exact fun hd => (probeDecide_status hne).trans (dispatch_eq_respond hd)
  case full => exact fun hd => (probeDecide_status hne).trans (dispatch_eq_fault hd)

end Sys2Proof.Machine
end

section
/-! PROOFS. One check per outermost critical section (43_interrupt_coordinator.md R187): `NEST` along N disables and N
enables. -/

namespace Sys2Proof.Machine

/-- From `s` the first `k` commands of a critical section have been answered by DONE(0); `NEST` is `m`, and the host has still
to issue `left`. -/
structure InSection (s : State) (left : List HostCmd) (m k : Nat) (t : State) : Prop where
  inv : t.Inv
  noReset : t.noReset
  ctl : t.ctl = .ready
  nest : t.nest = BitVec.ofNat 32 m
  host : t.host = left
  history : t.history = List.replicate k (.done 0) ++ s.history
  cfg : t.cfg = s.cfg
  edge : t.edge = s.edge
  dstack : t.dstack = s.dstack
  pins : t.pins = s.pins

namespace InSection

variable {s t : State} {c : HostCmd} {left : List HostCmd} {m k : Nat}

theorem step_eq_exec (h : InSection s (c :: left) m k t) {i : Instr} (hd : decode t.params.numDio c.cmd c.arg = .instr i) :
    step t = exec i { moved t with host := left } := by
  obtain ⟨hissue, -⟩ := stepRunsTheDecodedCommand t c left h.inv.params_legal h.inv.config_legal
    (pendingReset_of_noReset h.noReset) h.ctl h.host
  exact hissue i hd

theorem nest_toNat (h : InSection s left m k t) (hm : m < 2 ^ 32) : t.nest.toNat = m := by
  rw [h.nest, BitVec.toNat_ofNat, Nat.mod_eq_of_lt hm]

/-- A command that writes `NEST` and responds DONE(0). -/
theorem respond (h : InSection s (c :: left) m k t) {n : BitVec 32} {m' : Nat} (hn : n = BitVec.ofNat 32 m')
    (hstep : step t = .next (respondDone 0 { moved t with host := left, nest := n })) :
    ∃ u, step t = .next u ∧ InSection s left m' (k + 1) u :=
  ⟨_, hstep,
    { inv := everyStepKeepsTheInvariant _ _ h.inv hstep
      noReset := step_noReset h.noReset hstep
      ctl := rfl
      nest := hn
      host := rfl
      history := congrArg _ ((moved_history t).trans h.history)
      cfg := (moved_cfg t).trans h.cfg
      edge := (moved_edge t).trans h.edge
      dstack := (moved_dstack t).trans h.dstack
      pins := (moved_pins t).trans h.pins }⟩

/-- R184. -/
theorem disable (h : InSection s (c :: left) m k t) (hc : c.cmd = 0x01000000) (hm : m + 1 < 2 ^ 32) :
    ∃ u, step t = .next u ∧ InSection s left (m + 1) (k + 1) u := by
  have hnest := h.nest_toNat (Nat.lt_of_succ_lt hm)
  refine h.respond (n := (moved t).nest + 1) (by rw [moved_nest, h.nest, BitVec.ofNat_add]; rfl) ?_
  rw [h.step_eq_exec (i := .irqDisable) (by rw [hc]; rfl)]
  exact execIrqDisable_below (s := { moved t with host := left }) (by rw [moved_nest]; omega)

/-- R185, above 0 afterwards. -/
theorem enable (h : InSection s (c :: left) (m + 1) k t) (hc : c.cmd = 0x02000000) (hm : m + 1 < 2 ^ 32) (hpos : 0 < m) :
    ∃ u, step t = .next u ∧ InSection s left m (k + 1) u := by
  have hnest := h.nest_toNat hm
  refine h.respond (n := (moved t).nest - 1)
    (by rw [moved_nest, h.nest, BitVec.ofNat_add]; exact add_sub_cancel_right _ _) ?_
  rw [h.step_eq_exec (i := .irqEnable) (by rw [hc]; rfl)]
  exact execIrqEnable_above (s := { moved t with host := left }) (by rw [moved_nest]; omega)

/-- R185, at 0 afterwards: the check is in progress. -/
theorem lastEnable (h : InSection s (c :: left) 1 k t) (hc : c.cmd = 0x02000000) :
    step t = .next (startCheck { moved t with host := left, nest := 0 }) := by
  rw [h.step_eq_exec (i := .irqEnable) (by rw [hc]; rfl)]
  exact execIrqEnable_one (s := { moved t with host := left }) (by rw [moved_nest, h.nest]; rfl)

/-- R187: before the last command, `NEST` is the number of disables answered, less the enables. -/
theorem run {n : Nat} {cs rest : List HostCmd} (hs : InSection s (cs ++ rest) 0 0 s) (hlen : cs.length = 2 * n)
    (hn : n < 2 ^ 32) (hd : ∀ j (hj : j < cs.length), j < n → cs[j].cmd = 0x01000000)
    (he : ∀ j (hj : j < cs.length), n ≤ j → cs[j].cmd = 0x02000000) (k : Nat) (hk : k < 2 * n) :
    ∃ t, core.run k s = .next t ∧ InSection s (cs.drop k ++ rest) (min k (2 * n - k)) k t := by
  induction k with
  | zero => exact ⟨s, rfl, by simpa using hs⟩
  | succ k ih =>
    obtain ⟨t, hrun, ht⟩ := ih (by omega)
    have hlt : k < cs.length := by omega
    rw [List.drop_eq_getElem_cons hlt, List.cons_append] at ht
    have hnext : ∃ u, step t = .next u ∧ InSection s (cs.drop (k + 1) ++ rest) (min (k + 1) (2 * n - (k + 1))) (k + 1) u := by
      by_cases hkn : k < n
      · rw [show min k (2 * n - k) = k by omega] at ht
        rw [show min (k + 1) (2 * n - (k + 1)) = k + 1 by omega]
        exact ht.disable (hd k hlt hkn) (by omega)
      · rw [show min k (2 * n - k) = 2 * n - (k + 1) + 1 by omega] at ht
        rw [show min (k + 1) (2 * n - (k + 1)) = 2 * n - (k + 1) by omega]
        exact ht.enable (he k hlt (Nat.le_of_not_lt hkn)) (by omega) (by omega)
    obtain ⟨u, hstep, hu⟩ := hnext
    exact ⟨u, run_snoc hrun hstep, hu⟩

end InSection

theorem startCheck_ctl (s : State) :
    s.cfg.mode = .dedicatedLine ∧ (startCheck s).ctl = .exec (.scan 0) ∨
      s.cfg.mode = .busProbe ∧ (startCheck s).ctl = .exec .probeAssert := by
  unfold startCheck
  cases s.cfg.mode
  · exact .inl ⟨rfl, rfl⟩
  · exact .inr ⟨rfl, rfl⟩

/-- Starting a check writes `CTL` alone. -/
theorem startCheck_eq (s : State) : startCheck s = { s with ctl := (startCheck s).ctl } := by
  unfold startCheck
  split <;> rfl

/-- Settles O50: `InSection.run` up to the last command, and the last one starts the check. -/
theorem oneCheckPerOutermostSection : Obligations.OneCheckPerOutermostSection := by
  intro s n ds es rest hinv hnr hc hnest hpos hn hdlen helen hds hes hhost
  have hlen : (ds ++ es).length = 2 * n := by rw [List.length_append]; omega
  have hd : ∀ j (hj : j < (ds ++ es).length), j < n → (ds ++ es)[j].cmd = 0x01000000 := fun j hj hjn => by
    rw [List.getElem_append_left (by omega)]
    exact hds _ (List.getElem_mem _)
  have he : ∀ j (hj : j < (ds ++ es).length), n ≤ j → (ds ++ es)[j].cmd = 0x02000000 := fun j hj hnj => by
    rw [List.getElem_append_right (by omega)]
    exact hes _ (List.getElem_mem _)
  have hs : InSection s (ds ++ es ++ rest) 0 0 s := ⟨hinv, hnr, hc, hnest, hhost, rfl, rfl, rfl, rfl, rfl⟩
  have hrun := hs.run hlen hn hd he
  constructor
  · intro k hk
    obtain ⟨t, ht, hsec⟩ := hrun k hk
    exact ⟨t, ht, hsec.ctl, hsec.history⟩
  · obtain ⟨t, ht, hsec⟩ := hrun (2 * n - 1) (by omega)
    have hlast : 2 * n - 1 < (ds ++ es).length := by omega
    have hdrop : (ds ++ es).drop (2 * n - 1) = [(ds ++ es)[2 * n - 1]] := by
      rw [List.drop_eq_getElem_cons hlast, List.drop_of_length_le (by omega)]
    rw [hdrop, show min (2 * n - 1) (2 * n - (2 * n - 1)) = 1 by omega] at hsec
    have hend := run_snoc ht (hsec.lastEnable (he _ hlast (by omega)))
    rw [Nat.sub_add_cancel (by omega), startCheck_eq] at hend
    refine ⟨_, hend, rfl, rfl, (moved_edge t).trans hsec.edge, (moved_dstack t).trans hsec.dstack,
      (moved_pins t).trans hsec.pins, ?_⟩
    rw [← hsec.cfg, ← moved_cfg t]
    exact startCheck_ctl { moved t with host := rest, nest := 0 }

end Sys2Proof.Machine
end
